-- ==== Sys2Proof/Word.lean ====
section
/-! DEFINITION. The machine word: the byte. -/

namespace Sys2Proof

/-- Every register, memory cell, address and operand is one byte (00_scope.md R6); sums and differences
of bytes are modulo 256 (R8), which is what `+` and `-` of `BitVec 8` do. -/
abbrev Byte := BitVec 8

end Sys2Proof
end

