-- ==== Sys2Proof/Syntax.lean ====
section
/-! DEFINITION. The instruction set as syntax: one constructor per row of spec/opcode_table.json (30_encoding.md R54, R59). -/

namespace Sys2Proof

/-- The 31 instructions of R54 and the four rows that cover the unrecognised opcode bytes 0x1F to 0xFF (R56, R59).
`imm8` is the immediate operand of LOAD_AX and LOAD_BX, `addr8` the absolute target of a jump (R52). An unrecognised
row that covers several bytes carries the opcode byte itself, so that no bit of it is lost (log entry 5). -/
inductive Instr where
  | halt
  | loadAX (imm8 : Byte)
  | loadAXBX
  | loadAXSP
  | loadAXBP
  | loadBX (imm8 : Byte)
  | loadBXAX
  | loadBXSP
  | loadBXBP
  | loadSPAX
  | loadSPBX
  | loadBPAX
  | loadBPBX
  | pushAX
  | pushBX
  | pushREG
  | pushFLAG
  | pushALL
  | popAX
  | popBX
  | popREG
  | popFLAG
  | popALL
  | jumpADDR (addr8 : Byte)
  | jumpCRRY (addr8 : Byte)
  | jumpEQU (addr8 : Byte)
  | jumpNEQU (addr8 : Byte)
  | jumpGRTR (addr8 : Byte)
  | jumpLESS (addr8 : Byte)
  | jumpGEQU (addr8 : Byte)
  | jumpLEQU (addr8 : Byte)
  | unrecognised1F
  | unrecognised20To3F (opcode : Byte)
  | unrecognised40To7F (opcode : Byte)
  | unrecognised80ToFF (opcode : Byte)
deriving DecidableEq, Repr

end Sys2Proof
end

