-- ==== Sys2Proof/WellFormed.lean ====
section
/-! DEFINITION. Which terms of `Instr` stand for bytes of the machine. -/

namespace Sys2Proof

/-- `b` selects a row with these `mask` and `pattern` (30_encoding.md R59: `b AND mask == match`). -/
def opcodeSelects (mask pattern b : Byte) : Bool := b &&& mask == pattern

/-- Every operand value is legal (R57), so the only checks are those of the three unrecognised rows that carry their
opcode byte: it must be one the row covers (R59). -/
def Instr.wf : Instr → Bool
  | .halt | .loadAX _ | .loadAXBX | .loadAXSP | .loadAXBP => true
  | .loadBX _ | .loadBXAX | .loadBXSP | .loadBXBP => true
  | .loadSPAX | .loadSPBX | .loadBPAX | .loadBPBX => true
  | .pushAX | .pushBX | .pushREG | .pushFLAG | .pushALL => true
  | .popAX | .popBX | .popREG | .popFLAG | .popALL => true
  | .jumpADDR _ | .jumpCRRY _ | .jumpEQU _ | .jumpNEQU _ => true
  | .jumpGRTR _ | .jumpLESS _ | .jumpGEQU _ | .jumpLEQU _ => true
  | .unrecognised1F => true
  | .unrecognised20To3F op => opcodeSelects 0xE0#8 0x20#8 op
  | .unrecognised40To7F op => opcodeSelects 0xC0#8 0x40#8 op
  | .unrecognised80ToFF op => opcodeSelects 0x80#8 0x80#8 op

end Sys2Proof
end

