-- ==== Sys2Proof/Decode.lean ====
section
/-! DEFINITION. Decoding bytes to instructions, encoding instructions to bytes, and the opcode table as data
(30_encoding.md). -/

namespace Sys2Proof

/-- Why a list of bytes holds no whole instruction. Only a list that ends too early is rejected: every opcode byte and
every operand byte is decoded (R56, R57). The machine itself never meets either case, since memory has no end (R36). -/
inductive DecodeError where
  /-- There is no opcode byte. Raised by `decode` on the empty list; safe. -/
  | noOpcode
  /-- The opcode takes an operand byte and the list ends. Raised by `decode`; safe. -/
  | noOperand (opcode : Byte)
deriving DecidableEq, Repr

/-- What decoding a list of bytes gives: the first instruction and the bytes after it, or the reason there is none. -/
inductive Decoded where
  | ok (i : Instr) (rest : List Byte)
  | error (reason : DecodeError)
deriving DecidableEq, Repr

/-- The length of an instruction, from the opcode alone: 0x01, 0x05 and 0x17 to 0x1E are two bytes, everything else is
one byte (R50, R58). -/
def opcodeLength (op : Byte) : Nat :=
  if op == 0x01#8 || op == 0x05#8 || (0x17 ≤ op.toNat && op.toNat ≤ 0x1E) then 2 else 1

/-- An unrecognised opcode byte, by the row of the table that covers it (R59). -/
def decodeUnrecognised (op : Byte) : Instr :=
  if op == 0x1F#8 then .unrecognised1F
  else if opcodeSelects 0xE0#8 0x20#8 op then .unrecognised20To3F op
  else if opcodeSelects 0xC0#8 0x40#8 op then .unrecognised40To7F op
  else .unrecognised80ToFF op

/-- The opcode map of R54: the instruction that the opcode byte `op` selects, with the byte after it as its operand.
All eight bits of the opcode are compared; every byte selects exactly one instruction. -/
def decodeInstr (op operand : Byte) : Instr :=
  match op.toNat with
  | 0x00 => .halt
  | 0x01 => .loadAX operand
  | 0x02 => .loadAXBX
  | 0x03 => .loadAXSP
  | 0x04 => .loadAXBP
  | 0x05 => .loadBX operand
  | 0x06 => .loadBXAX
  | 0x07 => .loadBXSP
  | 0x08 => .loadBXBP
  | 0x09 => .loadSPAX
  | 0x0A => .loadSPBX
  | 0x0B => .loadBPAX
  | 0x0C => .loadBPBX
  | 0x0D => .pushAX
  | 0x0E => .pushBX
  | 0x0F => .pushREG
  | 0x10 => .pushFLAG
  | 0x11 => .pushALL
  | 0x12 => .popAX
  | 0x13 => .popBX
  | 0x14 => .popREG
  | 0x15 => .popFLAG
  | 0x16 => .popALL
  | 0x17 => .jumpADDR operand
  | 0x18 => .jumpCRRY operand
  | 0x19 => .jumpEQU operand
  | 0x1A => .jumpNEQU operand
  | 0x1B => .jumpGRTR operand
  | 0x1C => .jumpLESS operand
  | 0x1D => .jumpGEQU operand
  | 0x1E => .jumpLEQU operand
  | _ => decodeUnrecognised op

/-- The first instruction of a list of bytes and the bytes after it. -/
def decode : List Byte → Decoded
  | [] => .error .noOpcode
  | op :: rest =>
    if opcodeLength op = 2 then
      match rest with
      | [] => .error (.noOperand op)
      | operand :: rest' => .ok (decodeInstr op operand) rest'
    else .ok (decodeInstr op 0x00#8) rest

/-- The bytes of an instruction, lowest address first: formats `OP` (R51) and `OP_IMM8` (R52) with the opcodes of
R54. -/
def encode : Instr → List Byte
  | .halt => [0x00#8]
  | .loadAX imm8 => [0x01#8, imm8]
  | .loadAXBX => [0x02#8]
  | .loadAXSP => [0x03#8]
  | .loadAXBP => [0x04#8]
  | .loadBX imm8 => [0x05#8, imm8]
  | .loadBXAX => [0x06#8]
  | .loadBXSP => [0x07#8]
  | .loadBXBP => [0x08#8]
  | .loadSPAX => [0x09#8]
  | .loadSPBX => [0x0A#8]
  | .loadBPAX => [0x0B#8]
  | .loadBPBX => [0x0C#8]
  | .pushAX => [0x0D#8]
  | .pushBX => [0x0E#8]
  | .pushREG => [0x0F#8]
  | .pushFLAG => [0x10#8]
  | .pushALL => [0x11#8]
  | .popAX => [0x12#8]
  | .popBX => [0x13#8]
  | .popREG => [0x14#8]
  | .popFLAG => [0x15#8]
  | .popALL => [0x16#8]
  | .jumpADDR addr8 => [0x17#8, addr8]
  | .jumpCRRY addr8 => [0x18#8, addr8]
  | .jumpEQU addr8 => [0x19#8, addr8]
  | .jumpNEQU addr8 => [0x1A#8, addr8]
  | .jumpGRTR addr8 => [0x1B#8, addr8]
  | .jumpLESS addr8 => [0x1C#8, addr8]
  | .jumpGEQU addr8 => [0x1D#8, addr8]
  | .jumpLEQU addr8 => [0x1E#8, addr8]
  | .unrecognised1F => [0x1F#8]
  | .unrecognised20To3F op => [op]
  | .unrecognised40To7F op => [op]
  | .unrecognised80ToFF op => [op]

/-- One row of spec/opcode_table.json (R59). -/
structure OpcodeRow where
  pattern : Byte
  mask : Byte
  length : Nat
deriving DecidableEq, Repr

/-- The rows of defined opcodes `first`, `first + 1`, … (`n` of them), all of one length: exact matches. -/
def exactRows (first n length : Nat) : List OpcodeRow :=
  (List.range n).map fun k => ⟨BitVec.ofNat 8 (first + k), 0xFF#8, length⟩

/-- The table's rows in file order, 31 exact matches and then the four that cover 0x1F to 0xFF (R59). `decodeInstr`
does not read it: it is the spec's second account of the same map, to be proved to agree with the first. -/
def opcodeRows : List OpcodeRow :=
  exactRows 0x00 1 1 ++ exactRows 0x01 1 2 ++ exactRows 0x02 3 1 ++ exactRows 0x05 1 2 ++
    exactRows 0x06 17 1 ++ exactRows 0x17 8 2 ++
    [⟨0x1F#8, 0xFF#8, 1⟩, ⟨0x20#8, 0xE0#8, 1⟩, ⟨0x40#8, 0xC0#8, 1⟩, ⟨0x80#8, 0x80#8, 1⟩]

/-- The rows that the opcode byte `op` selects (R59). -/
def selectedRows (op : Byte) : List OpcodeRow :=
  opcodeRows.filter fun r => opcodeSelects r.mask r.pattern op

/-- The bytes of an instruction whose bits are `w`, `nbits` of them given and those above zero: byte 0 is bits 7..0
and lies at the lower address, byte 1 is bits 15..8 (R35, R52). -/
def tableBytes (nbits w : Nat) : Byte × Byte :=
  let v := w % 2 ^ nbits
  (BitVec.ofNat 8 v, BitVec.ofNat 8 (v / 256))

/-- The instruction the decoder reads from an instruction whose bits are `w`. -/
def decodeTableWord (nbits w : Nat) : Option Instr :=
  match decode [(tableBytes nbits w).1, (tableBytes nbits w).2] with
  | .ok i _ => some i
  | .error _ => none

end Sys2Proof
end

