-- ==== Sys2Proof/Config.lean ====
section
/-! DEFINITION. The fixed sizes and positions of 00_scope.md R6. The instruction set leaves no parameter to an
implementation (R6) and no value open (40_execution_cycle.md R73), so everything here is a number the spec gives. -/

namespace Sys2Proof.Config

/-- The Memory Bank has 256 cells, addresses 0 to 255 (R6, R20). -/
def memorySize : Nat := 256

/-- What a cell holds after reset and until it is written: zero (R20, R23). -/
def resetByte : Byte := 0x00#8

/-- FLAGS bit 0 is HALT (R16). -/
def haltBit : Nat := 0

/-- FLAGS bit 4 is CARRY (R16). -/
def carryBit : Nat := 4

end Sys2Proof.Config
end

