-- ==== Sys2Proof/Machine/Flags.lean ====
section
/-! DEFINITION. The flags register's bits and the comparator: everything the spec's 8bit_alu and flags_register compute
(00_scope.md R3, R8; 10_state.md R16 to R19). No instruction computes a flag from a result (R18): FLAGS changes only
by `Halt()` and by the pops that load it whole. -/

namespace Sys2Proof.Machine

/-- Bit `n` of FLAGS, bit 0 the least significant (R7, R16). -/
def flagBit (flags : Byte) (n : Nat) : Bool := flags.getLsbD n

/-- `FLAGS[0]`: 1 is Halted, 0 is Running (R17). -/
def haltFlag (flags : Byte) : Bool := flagBit flags Config.haltBit

/-- `FLAGS[4]` (R18). -/
def carryFlag (flags : Byte) : Bool := flagBit flags Config.carryBit

/-- `FLAGS[0] <- 1`: the other seven bits keep their value (R7, R80). -/
def withHaltFlag (flags : Byte) : Byte := flags ||| (1#8 <<< Config.haltBit)

/-- `FLAGS[0] <- 0`: no instruction does this (R17); it serves only to place an instruction to be run next (log entry
4). -/
def withoutHaltFlag (flags : Byte) : Byte := flags &&& ~~~(1#8 <<< Config.haltBit)

/-- `a == b` (R7). -/
def cmpEqual (a b : Byte) : Bool := a == b

/-- `a != b` (R7). -/
def cmpNotEqual (a b : Byte) : Bool := a != b

/-- `a > b` as unsigned integers (R7, R8). -/
def cmpGreater (a b : Byte) : Bool := decide (b.toNat < a.toNat)

/-- `a < b` as unsigned integers (R7, R8). -/
def cmpLess (a b : Byte) : Bool := decide (a.toNat < b.toNat)

/-- `a >= b` as unsigned integers (R7, R8). -/
def cmpGreaterEqual (a b : Byte) : Bool := decide (b.toNat ≤ a.toNat)

/-- `a <= b` as unsigned integers (R7, R8). -/
def cmpLessEqual (a b : Byte) : Bool := decide (a.toNat ≤ b.toNat)

end Sys2Proof.Machine
end

