-- ==== Sys2Proof/Machine/State.lean ====
section
/-! DEFINITION. The state of the machine as plain data (10_state.md), its reset value, and the ways a step can stop. -/

namespace Sys2Proof.Machine

/-- The Memory Bank's cells that do not hold zero, as (address, byte) pairs in rising order of address. An address that
is not listed holds `Config.resetByte`, which is zero (R20, R23). `Memory.wf` says the form (log entry 3). -/
abbrev Memory := List Host.Cell

/-- The whole architectural state: seven 8-bit registers and the Memory Bank (R10). -/
@[ext]
structure State where
  /-- General purpose (R11). -/
  ax : Byte
  /-- General purpose (R11). -/
  bx : Byte
  /-- Stack pointer: the next free stack slot (R12). -/
  sp : Byte
  /-- Base pointer (R13). -/
  bp : Byte
  /-- Instruction pointer, the program counter (R14). -/
  ip : Byte
  /-- Instruction register: the opcode byte fetched last (R15). -/
  ir : Byte
  /-- Bit 0 HALT, bit 4 CARRY, the other six bits plain storage (R16 to R19). -/
  flags : Byte
  /-- The Memory Bank (R20). -/
  mem : Memory
deriving DecidableEq, Repr

/-- After reset every register and every memory cell is zero (R23, R155). -/
def State.reset : State :=
  { ax := 0x00#8, bx := 0x00#8, sp := 0x00#8, bp := 0x00#8, ip := 0x00#8, ir := 0x00#8, flags := 0x00#8, mem := [] }

/-- The seven registers by name (R10). They have no numbers or addresses (R21). -/
inductive Reg where
  | ax | bx | sp | bp | ip | ir | flags
deriving DecidableEq, Repr

/-- The ways a step can stop with a fault: none. "The core never throws/raises across its boundary; all conditions
resolve to a FLAGS state change (HALT bit) or a register value" (R135), so the type has no constructor (log entry 6). -/
inductive Fault where
deriving DecidableEq, Repr

/-- The ways the model can decline an instruction. -/
inductive Refusal where
  /-- The instruction has no meaning in the model yet. Raised only by a refused arm of `exec`, of which there is none
  left; safe. -/
  | notModelled (mnemonic : String)
deriving DecidableEq, Repr

/-- What executing an instruction, or a tick, answers. -/
abbrev Result := Host.Outcome State Fault Refusal

/-! The updates of one field, in which every operation on the state is written. -/

def State.setAX (v : Byte) (s : State) : State := { s with ax := v }
def State.setBX (v : Byte) (s : State) : State := { s with bx := v }
def State.setSP (v : Byte) (s : State) : State := { s with sp := v }
def State.setBP (v : Byte) (s : State) : State := { s with bp := v }
def State.setIP (v : Byte) (s : State) : State := { s with ip := v }
def State.setIR (v : Byte) (s : State) : State := { s with ir := v }
def State.setFlags (v : Byte) (s : State) : State := { s with flags := v }
def State.setMem (m : Memory) (s : State) : State := { s with mem := m }

end Sys2Proof.Machine
end

