-- ==== Sys2Proof/Machine/Ops.lean ====
section
/-! DEFINITION. The named operations over memory and registers: the Memory Bank's read and write (20_memory.md), reading
and writing a register by name, the phases Fetch and Advance, and `Halt()`, the one abnormal effect the machine has. -/

namespace Sys2Proof.Machine

/-- The byte listed at address `a`, or what an unlisted address holds. -/
def cellsRead (a : Nat) : List Host.Cell → Byte
  | [] => Config.resetByte
  | c :: cs => if c.1 = a then c.2 else cellsRead a cs

/-- The cells without any at address `a`. -/
def cellsErase (a : Nat) (cs : List Host.Cell) : List Host.Cell := cs.filter fun c => c.1 != a

/-- The cells with one more, put before the first that has a greater address. -/
def cellsInsert (a : Nat) (v : Byte) : List Host.Cell → List Host.Cell
  | [] => [(a, v)]
  | c :: cs => if a < c.1 then (a, v) :: c :: cs else c :: cellsInsert a v cs

/-- `MemRead(addr, 1)`: the byte in cell `addr`; it never fails and changes nothing (R31). -/
def memRead (m : Memory) (addr : Byte) : Byte := cellsRead addr.toNat m

/-- `MemWrite(addr, 1, v)`: cell `addr` holds `v`, every other cell is unchanged; it never fails (R32). Writing what an
unlisted cell holds takes the cell out of the list. -/
def memWrite (m : Memory) (addr v : Byte) : Memory :=
  let others := cellsErase addr.toNat m
  if v = Config.resetByte then others else cellsInsert addr.toNat v others

/-- Addresses strictly rise along the list. -/
def risingAddresses : List Host.Cell → Bool
  | [] => true
  | c :: cs => cs.all (fun d => decide (c.1 < d.1)) && risingAddresses cs

/-- The canonical form of a memory: addresses strictly rising, each below 256 (R30), and no cell listed that holds what
an unlisted one does. -/
def Memory.wf (m : Memory) : Bool :=
  risingAddresses m && m.all fun c => decide (c.1 < Config.memorySize) && c.2 != Config.resetByte

/-- Read of a register by name (R7). -/
def readReg (r : Reg) (s : State) : Byte :=
  match r with
  | .ax => s.ax
  | .bx => s.bx
  | .sp => s.sp
  | .bp => s.bp
  | .ip => s.ip
  | .ir => s.ir
  | .flags => s.flags

/-- Write of a register by name (R7). None is hardwired (R10). -/
def writeReg (r : Reg) (v : Byte) (s : State) : State :=
  match r with
  | .ax => s.setAX v
  | .bx => s.setBX v
  | .sp => s.setSP v
  | .bp => s.setBP v
  | .ip => s.setIP v
  | .ir => s.setIR v
  | .flags => s.setFlags v

/-- Copy of one register to another; the source is unchanged (R85). -/
def copyReg (dst src : Reg) (s : State) : State := writeReg dst (readReg src s) s

/-- Store of a byte in the Memory Bank. -/
def store (addr v : Byte) (s : State) : State := s.setMem (memWrite s.mem addr v)

/-- `IP <- IP + 1` modulo 256 (R14). -/
def incIP (s : State) : State := s.setIP (s.ip + 1#8)

/-- The HALT bit is set (R17, R65). -/
def halted (s : State) : Bool := haltFlag s.flags

/-- `Ready()`: true iff the HALT bit of FLAGS is clear (R65). -/
def ready (s : State) : Bool := !halted s

/-- `Halt()`: `FLAGS[0] <- 1` (R7). This is all that any abnormal condition does: nothing is saved, no mode changes and
control goes nowhere (R135, R136, R138); and there is no return from it (R139). -/
def haltProcessor (s : State) : State := s.setFlags (withHaltFlag s.flags)

/-- Fetch: `IR <- MemRead(IP, 1)`; `IP` is not advanced (R68). -/
def fetch (s : State) : State := s.setIR (memRead s.mem s.ip)

/-- Advance: `if FLAGS[0] == 0 then IP <- IP + 1`, on the FLAGS the handler left (R70). -/
def advance (s : State) : State := if halted s then s else incIP s

end Sys2Proof.Machine
end

