-- ==== Sys2Proof/Machine/Operands.lean ====
section
/-! DEFINITION. The operand forms: the byte after the opcode, as an immediate or as a jump's target, and the cell that
`SP` addresses. There is no other addressing mode (20_memory.md R34). -/

namespace Sys2Proof.Machine

/-- What `FetchOperand()` does to the state: `IP <- IP + 1`, so that `IP` addresses the operand byte (R53). The byte it
reads there is the operand that the decoder hands to the instruction (log entry 2). -/
def fetchOperand (s : State) : State := incIP s

/-- An immediate operand written to a register (R85). -/
def loadImmediate (dst : Reg) (imm8 : Byte) (s : State) : State := writeReg dst imm8 (fetchOperand s)

/-- `Push(v)`: `MemWrite(SP, 1, v); SP <- SP - 1`, with the write at `SP` before the decrement (R100). -/
def push (v : Byte) (s : State) : State := (store s.sp v s).setSP (s.sp - 1#8)

/-- `Push` of a register, which it does not change (R100). -/
def pushReg (r : Reg) (s : State) : State := push (readReg r s) s

/-- `r <- Pop()`: `SP <- SP + 1`, then the cell the new `SP` addresses is read (R110). -/
def popReg (r : Reg) (s : State) : State := writeReg r (memRead s.mem (s.sp + 1#8)) (s.setSP (s.sp + 1#8))

/-- A jump's effect on `IP`. Taken: the operand byte `addr8` is fetched and `IP <- addr8 - 1`, so that Advance lands on
`addr8`. Not taken: `IP <- IP + 1`, the operand byte is stepped over (R120). -/
def jumpIf (condition : Bool) (addr8 : Byte) (s : State) : State :=
  if condition then (fetchOperand s).setIP (addr8 - 1#8) else incIP s

end Sys2Proof.Machine
end

