-- ==== Sys2Proof/Machine/Halt.lean ====
section
/-! DEFINITION. HALT and the unrecognised opcodes (41_halt.md). -/

namespace Sys2Proof.Machine

/-- R80. -/
def execHalt (s : State) : Result := .next (haltProcessor s)

/-- R81: opcode byte 0x1F, exactly as HALT. -/
def execUnrecognised1F (s : State) : Result := .next (haltProcessor s)

/-- R81: opcode bytes 0x20 to 0x3F, exactly as HALT. -/
def execUnrecognised20To3F (_opcode : Byte) (s : State) : Result := .next (haltProcessor s)

/-- R81: opcode bytes 0x40 to 0x7F, exactly as HALT. -/
def execUnrecognised40To7F (_opcode : Byte) (s : State) : Result := .next (haltProcessor s)

/-- R81: opcode bytes 0x80 to 0xFF, exactly as HALT. -/
def execUnrecognised80ToFF (_opcode : Byte) (s : State) : Result := .next (haltProcessor s)

end Sys2Proof.Machine
end

