-- ==== Sys2Proof/Machine/Jump.lean ====
section
/-! DEFINITION. The jump instructions (45_jump.md). -/

namespace Sys2Proof.Machine

/-- R121. -/
def execJumpADDR (addr8 : Byte) (s : State) : Result := .next (jumpIf true addr8 s)

/-- R122. -/
def execJumpCRRY (addr8 : Byte) (s : State) : Result := .next (jumpIf (carryFlag s.flags) addr8 s)

/-- R123. -/
def execJumpEQU (addr8 : Byte) (s : State) : Result := .next (jumpIf (cmpEqual s.ax s.bx) addr8 s)

/-- R124. -/
def execJumpNEQU (addr8 : Byte) (s : State) : Result := .next (jumpIf (cmpNotEqual s.ax s.bx) addr8 s)

/-- R125. -/
def execJumpGRTR (addr8 : Byte) (s : State) : Result := .next (jumpIf (cmpGreater s.ax s.bx) addr8 s)

/-- R126. -/
def execJumpLESS (addr8 : Byte) (s : State) : Result := .next (jumpIf (cmpLess s.ax s.bx) addr8 s)

/-- R127. -/
def execJumpGEQU (addr8 : Byte) (s : State) : Result := .next (jumpIf (cmpGreaterEqual s.ax s.bx) addr8 s)

/-- R128, with the true less-or-equal of the opcode table (90_conflicts.md C1). -/
def execJumpLEQU (addr8 : Byte) (s : State) : Result := .next (jumpIf (cmpLessEqual s.ax s.bx) addr8 s)

end Sys2Proof.Machine
end

