-- ==== Sys2Proof/Machine/Load.lean ====
section
/-! DEFINITION. Immediate loads and register copies (42_load.md). A mnemonic names its destination first. -/

namespace Sys2Proof.Machine

/-- R86. -/
def execLoadAX (imm8 : Byte) (s : State) : Result := .next (loadImmediate .ax imm8 s)

/-- R87. -/
def execLoadAXBX (s : State) : Result := .next (copyReg .ax .bx s)

/-- R88. -/
def execLoadAXSP (s : State) : Result := .next (copyReg .ax .sp s)

/-- R89. -/
def execLoadAXBP (s : State) : Result := .next (copyReg .ax .bp s)

/-- R90. -/
def execLoadBX (imm8 : Byte) (s : State) : Result := .next (loadImmediate .bx imm8 s)

/-- R91. -/
def execLoadBXAX (s : State) : Result := .next (copyReg .bx .ax s)

/-- R92. -/
def execLoadBXSP (s : State) : Result := .next (copyReg .bx .sp s)

/-- R93. -/
def execLoadBXBP (s : State) : Result := .next (copyReg .bx .bp s)

/-- R94. -/
def execLoadSPAX (s : State) : Result := .next (copyReg .sp .ax s)

/-- R95. -/
def execLoadSPBX (s : State) : Result := .next (copyReg .sp .bx s)

/-- R96. -/
def execLoadBPAX (s : State) : Result := .next (copyReg .bp .ax s)

/-- R97. -/
def execLoadBPBX (s : State) : Result := .next (copyReg .bp .bx s)

end Sys2Proof.Machine
end

