-- ==== Sys2Proof/Machine/Pop.lean ====
section
/-! DEFINITION. The pop instructions (44_pop.md). -/

namespace Sys2Proof.Machine

/-- R111. -/
def execPopAX (s : State) : Result := .next (popReg .ax s)

/-- R112. -/
def execPopBX (s : State) : Result := .next (popReg .bx s)

/-- R113: `BX <- Pop(); AX <- Pop()`. -/
def execPopREG (s : State) : Result := .next (popReg .ax (popReg .bx s))

/-- R114: all eight bits of FLAGS are loaded, the HALT bit among them. -/
def execPopFLAG (s : State) : Result := .next (popReg .flags s)

/-- R115: `FLAGS <- Pop(); BX <- Pop(); AX <- Pop()`; all three are done whatever the first one loads. -/
def execPopALL (s : State) : Result := .next (popReg .ax (popReg .bx (popReg .flags s)))

end Sys2Proof.Machine
end

