-- ==== Sys2Proof/Machine/Push.lean ====
section
/-! DEFINITION. The push instructions (43_push.md). -/

namespace Sys2Proof.Machine

/-- R101. -/
def execPushAX (s : State) : Result := .next (pushReg .ax s)

/-- R102. -/
def execPushBX (s : State) : Result := .next (pushReg .bx s)

/-- R103: `Push(AX); Push(BX)`. -/
def execPushREG (s : State) : Result := .next (pushReg .bx (pushReg .ax s))

/-- R104: all eight bits of FLAGS are stored. -/
def execPushFLAG (s : State) : Result := .next (pushReg .flags s)

/-- R105: `Push(AX); Push(BX); Push(FLAGS)`. -/
def execPushALL (s : State) : Result := .next (pushReg .flags (pushReg .bx (pushReg .ax s)))

end Sys2Proof.Machine
end

