-- ==== Sys2Proof/Machine/Dispatch.lean ====
section
/-! DEFINITION. The handler that each instruction selects (40_execution_cycle.md R69). The phases around it, Fetch and
Advance, are in Machine/Cycle.lean (log entry 11). -/

namespace Sys2Proof.Machine

def exec (i : Instr) (s : State) : Host.Outcome State Fault Refusal :=
  match i with
  | .halt => Sys2Proof.Machine.execHalt s
  | .loadAX imm8 => Sys2Proof.Machine.execLoadAX imm8 s
  | .loadAXBX => Sys2Proof.Machine.execLoadAXBX s
  | .loadAXSP => Sys2Proof.Machine.execLoadAXSP s
  | .loadAXBP => Sys2Proof.Machine.execLoadAXBP s
  | .loadBX imm8 => Sys2Proof.Machine.execLoadBX imm8 s
  | .loadBXAX => Sys2Proof.Machine.execLoadBXAX s
  | .loadBXSP => Sys2Proof.Machine.execLoadBXSP s
  | .loadBXBP => Sys2Proof.Machine.execLoadBXBP s
  | .loadSPAX => Sys2Proof.Machine.execLoadSPAX s
  | .loadSPBX => Sys2Proof.Machine.execLoadSPBX s
  | .loadBPAX => Sys2Proof.Machine.execLoadBPAX s
  | .loadBPBX => Sys2Proof.Machine.execLoadBPBX s
  | .pushAX => Sys2Proof.Machine.execPushAX s
  | .pushBX => Sys2Proof.Machine.execPushBX s
  | .pushREG => Sys2Proof.Machine.execPushREG s
  | .pushFLAG => Sys2Proof.Machine.execPushFLAG s
  | .pushALL => Sys2Proof.Machine.execPushALL s
  | .popAX => Sys2Proof.Machine.execPopAX s
  | .popBX => Sys2Proof.Machine.execPopBX s
  | .popREG => Sys2Proof.Machine.execPopREG s
  | .popFLAG => Sys2Proof.Machine.execPopFLAG s
  | .popALL => Sys2Proof.Machine.execPopALL s
  | .jumpADDR addr8 => Sys2Proof.Machine.execJumpADDR addr8 s
  | .jumpCRRY addr8 => Sys2Proof.Machine.execJumpCRRY addr8 s
  | .jumpEQU addr8 => Sys2Proof.Machine.execJumpEQU addr8 s
  | .jumpNEQU addr8 => Sys2Proof.Machine.execJumpNEQU addr8 s
  | .jumpGRTR addr8 => Sys2Proof.Machine.execJumpGRTR addr8 s
  | .jumpLESS addr8 => Sys2Proof.Machine.execJumpLESS addr8 s
  | .jumpGEQU addr8 => Sys2Proof.Machine.execJumpGEQU addr8 s
  | .jumpLEQU addr8 => Sys2Proof.Machine.execJumpLEQU addr8 s
  | .unrecognised1F => Sys2Proof.Machine.execUnrecognised1F s
  | .unrecognised20To3F op => Sys2Proof.Machine.execUnrecognised20To3F op s
  | .unrecognised40To7F op => Sys2Proof.Machine.execUnrecognised40To7F op s
  | .unrecognised80ToFF op => Sys2Proof.Machine.execUnrecognised80ToFF op s

end Sys2Proof.Machine
end

