-- ==== Sys2Proof/Machine/Cycle.lean ====
section
/-! DEFINITION. The tick: Fetch, Decode/Execute, Advance, and the gate that keeps a Halted Processor still
(40_execution_cycle.md). -/

namespace Sys2Proof.Machine

/-- What a Fetched state is about to execute: the instruction that the byte in `IR` selects (R69), its operand the byte
after the one `IP` addresses, modulo 256 (R52). -/
def decodedInstr (s : State) : Instr := decodeInstr s.ir (memRead s.mem (s.ip + 1#8))

/-- The Decode/Execute phase and the Advance phase of a Fetched state (R69, R70). -/
def executeAndAdvance (s : State) : Result :=
  match exec (decodedInstr s) s with
  | .next t => .next (advance t)
  | .fault r => .fault r
  | .refused r => .refused r

/-- One tick (R66). When the Processor is Halted it changes nothing (R67; log entry 1). -/
def tick (s : State) : Result := if halted s then .next s else executeAndAdvance (fetch s)

/-- The state with two bytes stored where the next Fetch and operand read find them, and the HALT bit clear, without
which no Fetch comes (R67; log entry 4). -/
def placeAtIP (first second : Byte) (s : State) : State :=
  (store (s.ip + 1#8) second (store s.ip first s)).setFlags (withoutHaltFlag s.flags)

end Sys2Proof.Machine
end

