-- ==== Sys2Proof/Machine/Step.lean ====
section
/-! DEFINITION. The step function: one step is one tick (40_execution_cycle.md R66: "A model's step function is one
tick"). -/

namespace Sys2Proof.Machine

/-- One step of the machine (R66). -/
def step (s : State) : Host.Outcome State Fault Refusal := tick s

/-- The state with the instruction whose bits are `w` placed at `IP`, where the next tick fetches it (log entry 4). -/
def State.withFetchWord (s : State) (nbits w : Nat) : State :=
  placeAtIP (tableBytes nbits w).1 (tableBytes nbits w).2 s

end Sys2Proof.Machine
end

