-- ==== Sys2Proof/Machine/Accesses.lean ====
section
/-! DEFINITION. The memory accesses of one tick, in order (40_execution_cycle.md R72): what a memory interface between
the Processor and the Memory Bank carries (R79, the internal pins). They are no state (log entry 7). -/

namespace Sys2Proof.Machine

/-- One access of one byte (R33). -/
inductive Access where
  /-- A read of cell `addr` that returns `v`. -/
  | read (addr v : Byte)
  /-- A write of `v` to cell `addr`. -/
  | write (addr v : Byte)
deriving DecidableEq, Repr

/-- The read of cell `addr` as memory stands in `s`. -/
def readAccess (s : State) (addr : Byte) : Access := .read addr (memRead s.mem addr)

/-- A jump reads its operand byte when it is taken and nothing when it is not (R120). -/
def jumpAccesses (condition : Bool) (s : State) : List Access :=
  if condition then [readAccess s (s.ip + 1#8)] else []

/-- The accesses of the handler of `i`, started in the Fetched state `s` (R72, the table). -/
def handlerAccesses (i : Instr) (s : State) : List Access :=
  match i with
  | .halt | .unrecognised1F | .unrecognised20To3F _ | .unrecognised40To7F _ | .unrecognised80ToFF _ => []
  | .loadAXBX | .loadAXSP | .loadAXBP | .loadBXAX | .loadBXSP | .loadBXBP => []
  | .loadSPAX | .loadSPBX | .loadBPAX | .loadBPBX => []
  | .loadAX _ | .loadBX _ => [readAccess s (s.ip + 1#8)]
  | .pushAX => [.write s.sp s.ax]
  | .pushBX => [.write s.sp s.bx]
  | .pushREG => [.write s.sp s.ax, .write (s.sp - 1#8) s.bx]
  | .pushFLAG => [.write s.sp s.flags]
  | .pushALL => [.write s.sp s.ax, .write (s.sp - 1#8) s.bx, .write (s.sp - 2#8) s.flags]
  | .popAX | .popBX | .popFLAG => [readAccess s (s.sp + 1#8)]
  | .popREG => [readAccess s (s.sp + 1#8), readAccess s (s.sp + 2#8)]
  | .popALL => [readAccess s (s.sp + 1#8), readAccess s (s.sp + 2#8), readAccess s (s.sp + 3#8)]
  | .jumpADDR _ => jumpAccesses true s
  | .jumpCRRY _ => jumpAccesses (carryFlag s.flags) s
  | .jumpEQU _ => jumpAccesses (cmpEqual s.ax s.bx) s
  | .jumpNEQU _ => jumpAccesses (cmpNotEqual s.ax s.bx) s
  | .jumpGRTR _ => jumpAccesses (cmpGreater s.ax s.bx) s
  | .jumpLESS _ => jumpAccesses (cmpLess s.ax s.bx) s
  | .jumpGEQU _ => jumpAccesses (cmpGreaterEqual s.ax s.bx) s
  | .jumpLEQU _ => jumpAccesses (cmpLessEqual s.ax s.bx) s

/-- The accesses of a tick: none when Halted (R67), else the Fetch read and then the handler's (R72). -/
def tickAccesses (s : State) : List Access :=
  if halted s then [] else readAccess s s.ip :: handlerAccesses (decodedInstr (fetch s)) (fetch s)

/-- What the Memory Bank makes of a list of accesses, each complete before the next (R41): a write changes its cell, and
a read must return what the cell holds (`none` if it does not). -/
def replay : List Access → Memory → Option Memory
  | [], m => some m
  | .read addr v :: rest, m => if memRead m addr = v then replay rest m else none
  | .write addr v :: rest, m => replay rest (memWrite m addr v)

end Sys2Proof.Machine
end

