-- ==== Sys2Proof/Machine/HostInterface.lean ====
section
/-! DEFINITION. The five operations the host has on the block, and nothing else (40_execution_cycle.md R75 to R78), and
what the host reads out of a Halted block (41_halt.md R82). -/

namespace Sys2Proof.Machine

/-- The bytes of an image stored from address `at_` upwards. -/
def loadBytes (at_ : Byte) : List Byte → Memory → Memory
  | [], m => m
  | b :: rest, m => loadBytes (at_ + 1#8) rest (memWrite m at_ b)

/-- LoadImage: at most 256 bytes copied to address 0 upwards; memory only. A longer sequence is no program image and is
refused: not truncated, not wrapped (R76, R157). -/
def loadImage (img : List Byte) (s : State) : Option State :=
  if img.length ≤ Config.memorySize then some (s.setMem (loadBytes 0x00#8 img s.mem)) else none

/-- The values of the seven registers as Snapshot shows them (R77). -/
structure Snapshot where
  ax : Byte
  bx : Byte
  sp : Byte
  bp : Byte
  ip : Byte
  ir : Byte
  flags : Byte
deriving DecidableEq, Repr

/-- Snapshot of the registers (R77). -/
def snapshot (s : State) : Snapshot :=
  { ax := s.ax, bx := s.bx, sp := s.sp, bp := s.bp, ip := s.ip, ir := s.ir, flags := s.flags }

/-- What made the Processor halt (R82). -/
inductive HaltCause where
  /-- A HALT instruction, which includes running into zeroed memory. -/
  | haltInstruction
  /-- POP_FLAG loaded a byte with bit 0 set. -/
  | popFLAG
  /-- POP_ALL loaded a FLAGS byte with bit 0 set. -/
  | popALL
  /-- An unrecognised opcode, and which. -/
  | unrecognised (opcode : Byte)
deriving DecidableEq, Repr

/-- The cause that the byte in `IR` tells, where it is one that can be seen in the Halted state (R82). -/
def causeOfIR (ir : Byte) : Option HaltCause :=
  match ir.toNat with
  | 0x00 => some .haltInstruction
  | 0x15 => some .popFLAG
  | 0x16 => some .popALL
  | n => if 0x1F ≤ n then some (.unrecognised ir) else none

/-- The cause of a halt, read from `IR`; none while Running (R82). -/
def haltCause (s : State) : Option HaltCause := if halted s then causeOfIR s.ir else none

/-- The block and what the host protocol remembers of the run: whether a tick has been requested since Reset, which ends
the time in which LoadImage is allowed (R75). `ticked` is no state of the machine (log entry 8). -/
structure Session where
  block : State
  ticked : Bool
deriving DecidableEq, Repr

/-- A run's start, right after Reset (R155). -/
def Session.start : Session := { block := State.reset, ticked := false }

/-- What the host may ask (R75). Memory is read a cell at a time, as part of Snapshot (R77). -/
inductive HostOp where
  | reset
  | loadImage (img : List Byte)
  | ready
  | tick
  | snapshot
  | readCell (addr : Byte)
deriving DecidableEq, Repr

/-- What the host gets back (R75). -/
inductive HostReply where
  | nothing
  | isReady (b : Bool)
  | registers (r : Snapshot)
  | cell (v : Byte)
deriving DecidableEq, Repr

/-- One host operation; `none` where the operation is not allowed, and then the block is not changed (R75, R76, R78). -/
def hostStep (op : HostOp) (h : Session) : Option (Session × HostReply) :=
  match op with
  | .reset => some (Session.start, .nothing)
  | .loadImage img =>
    if h.ticked then none
    else match loadImage img h.block with
      | some s => some ({ h with block := s }, .nothing)
      | none => none
  | .ready => some (h, .isReady (ready h.block))
  | .tick =>
    match step h.block with
    | .next t => some ({ block := t, ticked := true }, .nothing)
    | .fault _ => none
    | .refused _ => none
  | .snapshot => some (h, .registers (snapshot h.block))
  | .readCell addr => some (h, .cell (memRead h.block.mem addr))

end Sys2Proof.Machine
end

