-- ==== Sys2Proof/Machine/Pins.lean ====
section
/-! DEFINITION. The pins of 40_execution_cycle.md R79 at tick boundaries, one way to carry the host's operations. No
rule depends on them (R79). `clk` carries no meaning, and the internal pins are the list of Machine/Accesses.lean. -/

namespace Sys2Proof.Machine

/-- The input pins. -/
structure PinsIn where
  reset : Bool
  loadEn : Bool
  loadAddr : Byte
  loadData : Byte
  tick : Bool
  dbgAddr : Byte
deriving DecidableEq, Repr

/-- The output pins. -/
structure PinsOut where
  ready : Bool
  busy : Bool
  regs : Snapshot
  dbgData : Byte
deriving DecidableEq, Repr

/-- The outputs at a tick boundary: `ready` the inverse of `FLAGS[0]`, `busy` low because no tick is in progress, the
registers, and the cell that `dbg_addr` addresses (R79). -/
def pinsOut (p : PinsIn) (h : Session) : PinsOut :=
  { ready := ready h.block, busy := false, regs := snapshot h.block, dbgData := memRead h.block.mem p.dbgAddr }

/-- Whether the load pins act: `load_en` is high and no tick has happened since Reset (R79). -/
def loadActs (p : PinsIn) (h : Session) : Bool := p.loadEn && !h.ticked

/-- Whether the `tick` pin acts: it is high, and it is not ignored, `ready` being high (R79). -/
def tickActs (p : PinsIn) (h : Session) : Bool := p.tick && ready h.block

/-- One cell loaded: where the load pins act, cell `load_addr` receives `load_data` (R79). -/
def pinLoad (p : PinsIn) (h : Session) : Session :=
  if loadActs p h then { h with block := store p.loadAddr p.loadData h.block } else h

/-- A tick requested: one tick where the `tick` pin acts (R79). -/
def pinTick (p : PinsIn) (h : Session) : Option Session :=
  if tickActs p h then (hostStep .tick h).map Prod.fst else some h

/-- What the pins ask at a tick boundary. A request that R79 gives no effect in this session (a load after the first tick,
a tick while `ready` is low) does not act, whatever is high beside it, and the request that acts is done; `reset` always
acts (R75). Where two act the spec does not say in which order they are done, and the order can make a difference: refused
with `none` (log entry 10). -/
def pinCycle (p : PinsIn) (h : Session) : Option Session :=
  match p.reset, loadActs p h, tickActs p h with
  | false, false, false => some h
  | true, false, false => some Session.start
  | false, true, false => some (pinLoad p h)
  | false, false, true => pinTick p h
  | false, true, true => none
  | true, true, _ => none
  | true, false, true => none

end Sys2Proof.Machine
end

