-- ==== Sys2Proof/Safety.lean ====
section
/-! DEFINITION. The terms in which claims speak of runs: well-formed states, states of a run, and what a Halted state
records. -/

namespace Sys2Proof.Machine

/-- The state's memory is in canonical form. The registers need no check: every value of every register is legal. -/
def State.wf (s : State) : Bool := Memory.wf s.mem

/-- What the host can rely on in a Halted state (R82): `IR` tells a cause, and `IP` is the address of the instruction
that set the HALT bit, whose opcode byte is still there. -/
def HaltRecord (s : State) : Prop :=
  halted s = true → (haltCause s).isSome = true ∧ memRead s.mem s.ip = s.ir

/-- The byte that the next tick fetches as its opcode (R68). -/
def nextOpcode (s : State) : Byte := memRead s.mem s.ip

/-- The byte after it, modulo 256: the operand of a two-byte instruction (R52). -/
def nextOperand (s : State) : Byte := memRead s.mem (s.ip + 1#8)

/-- The conditions of the eight jumps by opcode, side by side (R129). -/
def jumpCondition (op : Byte) (s : State) : Bool :=
  match op.toNat with
  | 0x17 => true
  | 0x18 => s.flags.getLsbD 4
  | 0x19 => decide (s.ax = s.bx)
  | 0x1A => decide (s.ax ≠ s.bx)
  | 0x1B => decide (s.ax.toNat > s.bx.toNat)
  | 0x1C => decide (s.ax.toNat < s.bx.toNat)
  | 0x1D => decide (s.ax.toNat ≥ s.bx.toNat)
  | 0x1E => decide (s.ax.toNat ≤ s.bx.toNat)
  | _ => false

/-- The bytes that the next tick pushes, in the order of its stores: the `k`-th goes to cell `SP - k` (R101 to R105).
Empty for an instruction that is no push. -/
def pushedBytes (s : State) : List Byte :=
  match (nextOpcode s).toNat with
  | 0x0D => [s.ax]
  | 0x0E => [s.bx]
  | 0x0F => [s.ax, s.bx]
  | 0x10 => [s.flags]
  | 0x11 => [s.ax, s.bx, s.flags]
  | _ => []

/-- The states of a run (R74): Reset, LoadImage, then ticks. -/
inductive Reachable : State → Prop where
  | start (img : List Byte) (s : State) (loaded : loadImage img State.reset = some s) : Reachable s
  | tick (s t : State) (before : Reachable s) (ticked : step s = .next t) : Reachable t

/-- The sessions that the host's operations lead to from the start of a run (R75). -/
inductive SessionReachable : Session → Prop where
  | start : SessionReachable Session.start
  | op (o : HostOp) (h h' : Session) (r : HostReply) (before : SessionReachable h)
      (done : hostStep o h = some (h', r)) : SessionReachable h'

/-- A step that neither faults nor is refused. -/
def SafeStep (s : State) : Prop := ∃ t, step s = .next t

end Sys2Proof.Machine
end

