-- ==== Sys2Proof/Certificates/Slice0/Obligations.lean ====
section
/-! DEFINITION. The statements for the provers. `nextOpcode s` and `nextOperand s` are the bytes at `IP` and at `IP + 1`
modulo 256; all sums are modulo 256. A statement about one tick starts from a Running state (`ready s`), the only one in
which an instruction executes (40_execution_cycle.md R67). -/

open Sys2Proof Sys2Proof.Machine

/-! ### Decoding and encoding -/

/-- A few words of every family, written out from R54's table, decode to the instructions they stand for; an empty list
and an opcode without its operand byte are rejected by name (log entry 12). -/
def Obligations.SpecWordsDecode : Prop :=
  decode [0b00000000#8] = .ok .halt [] ∧
  decode [0b00000001#8, 0xDF#8] = .ok (.loadAX 0xDF#8) [] ∧
  decode [0b00000101#8, 0x1F#8, 0x0A#8] = .ok (.loadBX 0x1F#8) [0x0A#8] ∧
  decode [0b00001100#8] = .ok .loadBPBX [] ∧
  decode [0b00010001#8] = .ok .pushALL [] ∧
  decode [0b00010110#8] = .ok .popALL [] ∧
  decode [0b00011100#8, 0x20#8] = .ok (.jumpLESS 0x20#8) [] ∧
  decode [0b00011110#8, 0x00#8] = .ok (.jumpLEQU 0x00#8) [] ∧
  decode [0b00011111#8] = .ok .unrecognised1F [] ∧
  decode [0b00111111#8] = .ok (.unrecognised20To3F 0x3F#8) [] ∧
  decode [0b01000000#8] = .ok (.unrecognised40To7F 0x40#8) [] ∧
  decode [0b11111111#8] = .ok (.unrecognised80ToFF 0xFF#8) [] ∧
  decode [] = .error .noOpcode ∧ decode [0b00010111#8] = .error (.noOperand 0x17#8)

/-- Decoding the bytes of any well-formed instruction gives it back, with every operand at every value, and the bytes
after it (R50 to R54). -/
def Obligations.DecodeOfEncode : Prop :=
  ∀ (i : Instr) (rest : List Byte), i.wf = true → decode (encode i ++ rest) = .ok i rest

/-- What the decoder reads is well-formed, and encoding it gives back exactly the bytes it was read from: each word has
one meaning and no bit of it is dropped (R54, R58, R59). -/
def Obligations.EncodeOfDecode : Prop :=
  ∀ (bytes rest : List Byte) (i : Instr), decode bytes = .ok i rest → i.wf = true ∧ encode i ++ rest = bytes

/-- The opcode table's rows are a decoder (R59): every byte selects exactly one row, the row's length is that of R58, and
the exact rows are those of the 31 bytes below 0x1F and of 0x1F. -/
def Obligations.EveryByteSelectsOneRow : Prop :=
  ∀ op : Byte, ∃ r : OpcodeRow, selectedRows op = [r] ∧ r.length = opcodeLength op ∧
    (r.mask = 0xFF#8 ↔ op.toNat ≤ 0x1F)

/-- The decoder and the opcode table are one map (R54, R56, R59): the decoded instruction's bytes begin with the opcode
byte decoded and are as many as the selected row says, and it is an unrecognised one exactly for a byte from 0x1F on. -/
def Obligations.DecoderAgreesWithTable : Prop :=
  ∀ (op operand : Byte) (r : OpcodeRow), r ∈ selectedRows op →
    (encode (decodeInstr op operand)).length = r.length ∧
    (encode (decodeInstr op operand)).head? = some op ∧
    (0x1F ≤ op.toNat ↔ decodeInstr op operand = decodeUnrecognised op)

/-! ### Memory, reset and the image -/

/-- The canonical form of memory is canonical: two memories in that form that read alike in all 256 cells are the same
data (R20, R30; log entry 3). -/
def Obligations.MemoriesThatReadAlikeAreEqual : Prop :=
  ∀ m n : Memory, Memory.wf m = true → Memory.wf n = true → (∀ a : Byte, memRead m a = memRead n a) → m = n

/-- After Reset, whatever the session was, every register and every memory cell is zero (R23). -/
def Obligations.ResetLeavesEverythingZero : Prop :=
  (∀ h : Session, hostStep .reset h = some ({ block := State.reset, ticked := false }, .nothing)) ∧
  State.reset.ax = 0x00#8 ∧ State.reset.bx = 0x00#8 ∧ State.reset.sp = 0x00#8 ∧ State.reset.bp = 0x00#8 ∧
  State.reset.ip = 0x00#8 ∧ State.reset.ir = 0x00#8 ∧ State.reset.flags = 0x00#8 ∧
  (∀ a : Byte, memRead State.reset.mem a = 0x00#8) ∧ ready State.reset = true

/-- With no image loaded the first tick executes HALT: the run ends with `FLAGS` = 0x01 and everything else zero
(R157, last sentence). -/
def Obligations.EmptyImageHaltsAtOnce : Prop :=
  ∀ s : State, loadImage [] State.reset = some s → step s = .next { State.reset with flags := 0x01#8 }

/-- LoadImage after Reset (R76): an image of at most 256 bytes fills the cells from 0 and leaves the others zero and every
register zero; a longer sequence is refused in any state. -/
def Obligations.LoadImageFillsFromZero : Prop :=
  (∀ img : List Byte, img.length ≤ 256 →
    ∃ s, loadImage img State.reset = some s ∧ s = { State.reset with mem := s.mem } ∧
      ∀ a : Byte, memRead s.mem a = img.getD a.toNat 0x00#8) ∧
  (∀ (img : List Byte) (s : State), 256 < img.length → loadImage img s = none)

/-! ### The tick -/

/-- A tick requested while the Processor is Halted changes nothing, makes no memory access, and `Ready()` stays false
(R67). -/
def Obligations.HaltedTickChangesNothing : Prop :=
  ∀ s : State, halted s = true → step s = .next s ∧ tickAccesses s = [] ∧ ready s = false

/-- However many ticks are requested of a Halted Processor, its state stays as it is (R139, R148). -/
def Obligations.HaltedForGood : Prop :=
  ∀ (s : State) (k : Nat), halted s = true → Host.Core.run Sys2Proof.core k s = .next s

/-- A tick of a Running Processor runs the instruction decoded at `IP` (R66, R68 to R70): the two bytes there always
decode to a well-formed instruction, and the tick is its handler on the state with the opcode byte in `IR`, then one
more added to `IP` if the Processor is still Running. -/
def Obligations.TickRunsDecodedInstruction : Prop :=
  ∀ s : State, ready s = true →
    ∃ (i : Instr) (rest : List Byte) (t : State),
      decode [nextOpcode s, nextOperand s] = .ok i rest ∧ i.wf = true ∧
      exec i { s with ir := nextOpcode s } = .next t ∧
      step s = .next (if t.flags.getLsbD 0 then t else { t with ip := t.ip + 1#8 })

/-- No tick ever faults or is refused: the core never raises across its boundary, and no address, operand or opcode stops
it (R135, R136). -/
def Obligations.NoTickStops : Prop := ∀ s : State, SafeStep s

/-! ### What each handler does: `exec` answers a next state, the one given, from every state -/

/-- The handlers of HALT and of the four unrecognised rows set FLAGS bit 0 and change nothing else, all of memory among
it (R80, R81). -/
def Obligations.HaltHandlersSetOneBit : Prop :=
  ∀ (s : State) (op : Byte),
    exec .halt s = .next { s with flags := s.flags ||| 0x01#8 } ∧
    exec .unrecognised1F s = .next { s with flags := s.flags ||| 0x01#8 } ∧
    exec (.unrecognised20To3F op) s = .next { s with flags := s.flags ||| 0x01#8 } ∧
    exec (.unrecognised40To7F op) s = .next { s with flags := s.flags ||| 0x01#8 } ∧
    exec (.unrecognised80ToFF op) s = .next { s with flags := s.flags ||| 0x01#8 }

/-- The handlers of the twelve loads write their destination register, and the two immediate ones move `IP` to the
operand byte; nothing else changes, all of memory among it (R85). -/
def Obligations.LoadHandlersWriteDestination : Prop :=
  ∀ (s : State) (imm8 : Byte),
    exec (.loadAX imm8) s = .next { s with ax := imm8, ip := s.ip + 1#8 } ∧
    exec (.loadBX imm8) s = .next { s with bx := imm8, ip := s.ip + 1#8 } ∧
    exec .loadAXBX s = .next { s with ax := s.bx } ∧
    exec .loadAXSP s = .next { s with ax := s.sp } ∧
    exec .loadAXBP s = .next { s with ax := s.bp } ∧
    exec .loadBXAX s = .next { s with bx := s.ax } ∧
    exec .loadBXSP s = .next { s with bx := s.sp } ∧
    exec .loadBXBP s = .next { s with bx := s.bp } ∧
    exec .loadSPAX s = .next { s with sp := s.ax } ∧
    exec .loadSPBX s = .next { s with sp := s.bx } ∧
    exec .loadBPAX s = .next { s with bp := s.ax } ∧
    exec .loadBPBX s = .next { s with bp := s.bx }

/-- The handlers of the pushes of one byte store it in the cell `SP` addressed and move `SP` one down; every other byte
of memory reads as before, and no other register or flag changes (R101, R102, R104). -/
def Obligations.PushOneHandlersStoreAtSP : Prop :=
  ∀ s : State,
    (∃ t, exec .pushAX s = .next t ∧ t = { s with sp := s.sp - 1#8, mem := t.mem } ∧
      ∀ a : Byte, memRead t.mem a = if a = s.sp then s.ax else memRead s.mem a) ∧
    (∃ t, exec .pushBX s = .next t ∧ t = { s with sp := s.sp - 1#8, mem := t.mem } ∧
      ∀ a : Byte, memRead t.mem a = if a = s.sp then s.bx else memRead s.mem a) ∧
    (∃ t, exec .pushFLAG s = .next t ∧ t = { s with sp := s.sp - 1#8, mem := t.mem } ∧
      ∀ a : Byte, memRead t.mem a = if a = s.sp then s.flags else memRead s.mem a)

/-- The handlers of PUSH_REG and PUSH_ALL store AX, BX (and FLAGS) in the cells `S`, `S - 1` (and `S - 2`), `S` the `SP`
they start with; every other byte of memory reads as before, and no register but `SP` changes (R103, R105). -/
def Obligations.PushManyHandlersStoreDownwards : Prop :=
  ∀ s : State,
    (∃ t, exec .pushREG s = .next t ∧ t = { s with sp := s.sp - 2#8, mem := t.mem } ∧
      memRead t.mem s.sp = s.ax ∧ memRead t.mem (s.sp - 1#8) = s.bx ∧
      ∀ a : Byte, a ≠ s.sp → a ≠ s.sp - 1#8 → memRead t.mem a = memRead s.mem a) ∧
    (∃ t, exec .pushALL s = .next t ∧ t = { s with sp := s.sp - 3#8, mem := t.mem } ∧
      memRead t.mem s.sp = s.ax ∧ memRead t.mem (s.sp - 1#8) = s.bx ∧ memRead t.mem (s.sp - 2#8) = s.flags ∧
      ∀ a : Byte, a ≠ s.sp → a ≠ s.sp - 1#8 → a ≠ s.sp - 2#8 → memRead t.mem a = memRead s.mem a)

/-- The handlers of the pops load their registers from the cells above `SP`, lowest first, and move `SP` up past them;
nothing else changes, all of memory among it. POP_ALL's second and third pops are done whatever the first loads into
FLAGS (R111 to R115). -/
def Obligations.PopHandlersLoadUpwards : Prop :=
  ∀ s : State,
    exec .popAX s = .next { s with sp := s.sp + 1#8, ax := memRead s.mem (s.sp + 1#8) } ∧
    exec .popBX s = .next { s with sp := s.sp + 1#8, bx := memRead s.mem (s.sp + 1#8) } ∧
    exec .popREG s =
      .next { s with sp := s.sp + 2#8, bx := memRead s.mem (s.sp + 1#8), ax := memRead s.mem (s.sp + 2#8) } ∧
    exec .popFLAG s = .next { s with sp := s.sp + 1#8, flags := memRead s.mem (s.sp + 1#8) } ∧
    exec .popALL s =
      .next { s with sp := s.sp + 3#8, flags := memRead s.mem (s.sp + 1#8), bx := memRead s.mem (s.sp + 2#8),
                     ax := memRead s.mem (s.sp + 3#8) }

/-- The handlers of the eight jumps write `IP` and nothing else, all of memory among it: `addr8 - 1` where the condition
holds, `IP + 1` where it does not; the comparisons are unsigned (R120). -/
def Obligations.JumpHandlersWriteOnlyIP : Prop :=
  ∀ (s : State) (addr8 : Byte),
    exec (.jumpADDR addr8) s = .next { s with ip := addr8 - 1#8 } ∧
    exec (.jumpCRRY addr8) s =
      .next { s with ip := if s.flags.getLsbD 4 then addr8 - 1#8 else s.ip + 1#8 } ∧
    exec (.jumpEQU addr8) s = .next { s with ip := if s.ax = s.bx then addr8 - 1#8 else s.ip + 1#8 } ∧
    exec (.jumpNEQU addr8) s = .next { s with ip := if s.ax ≠ s.bx then addr8 - 1#8 else s.ip + 1#8 } ∧
    exec (.jumpGRTR addr8) s =
      .next { s with ip := if s.ax.toNat > s.bx.toNat then addr8 - 1#8 else s.ip + 1#8 } ∧
    exec (.jumpLESS addr8) s =
      .next { s with ip := if s.ax.toNat < s.bx.toNat then addr8 - 1#8 else s.ip + 1#8 } ∧
    exec (.jumpGEQU addr8) s =
      .next { s with ip := if s.ax.toNat ≥ s.bx.toNat then addr8 - 1#8 else s.ip + 1#8 } ∧
    exec (.jumpLEQU addr8) s =
      .next { s with ip := if s.ax.toNat ≤ s.bx.toNat then addr8 - 1#8 else s.ip + 1#8 }

/-! ### What a tick of each instruction does: the instruction rules whole -/

/-- R80: HALT sets FLAGS bit 0 and keeps the others, `IP` stays, `IR` holds 0x00, and the Processor is Halted. -/
def Obligations.HaltTick : Prop :=
  ∀ s : State, ready s = true → nextOpcode s = 0x00#8 →
    step s = .next { s with ir := 0x00#8, flags := s.flags ||| 0x01#8 } ∧
    ready { s with ir := 0x00#8, flags := s.flags ||| 0x01#8 } = false ∧ tickAccesses s = [.read s.ip 0x00#8]

/-- R81: a byte from 0x1F to 0xFF at `IP` sets FLAGS bit 0 and keeps the others, `IP` stays, `IR` holds the byte, and no
operand is fetched. -/
def Obligations.UnrecognisedTick : Prop :=
  ∀ s : State, ready s = true → 0x1F ≤ (nextOpcode s).toNat →
    step s = .next { s with ir := nextOpcode s, flags := s.flags ||| 0x01#8 } ∧
    tickAccesses s = [.read s.ip (nextOpcode s)]

/-- R86 and R90: LOAD_AX and LOAD_BX load the byte after the opcode and move `IP` two on. -/
def Obligations.LoadImmediateTick : Prop :=
  ∀ s : State, ready s = true →
    (nextOpcode s = 0x01#8 → step s = .next { s with ir := 0x01#8, ax := nextOperand s, ip := s.ip + 2#8 }) ∧
    (nextOpcode s = 0x05#8 → step s = .next { s with ir := 0x05#8, bx := nextOperand s, ip := s.ip + 2#8 })

/-- R87 to R89: the copies to AX. -/
def Obligations.CopyToAXTick : Prop :=
  ∀ s : State, ready s = true →
    (nextOpcode s = 0x02#8 → step s = .next { s with ir := 0x02#8, ax := s.bx, ip := s.ip + 1#8 }) ∧
    (nextOpcode s = 0x03#8 → step s = .next { s with ir := 0x03#8, ax := s.sp, ip := s.ip + 1#8 }) ∧
    (nextOpcode s = 0x04#8 → step s = .next { s with ir := 0x04#8, ax := s.bp, ip := s.ip + 1#8 })

/-- R91 to R93: the copies to BX. -/
def Obligations.CopyToBXTick : Prop :=
  ∀ s : State, ready s = true →
    (nextOpcode s = 0x06#8 → step s = .next { s with ir := 0x06#8, bx := s.ax, ip := s.ip + 1#8 }) ∧
    (nextOpcode s = 0x07#8 → step s = .next { s with ir := 0x07#8, bx := s.sp, ip := s.ip + 1#8 }) ∧
    (nextOpcode s = 0x08#8 → step s = .next { s with ir := 0x08#8, bx := s.bp, ip := s.ip + 1#8 })

/-- R94 to R97: the copies to SP and to BP. -/
def Obligations.CopyToPointerTick : Prop :=
  ∀ s : State, ready s = true →
    (nextOpcode s = 0x09#8 → step s = .next { s with ir := 0x09#8, sp := s.ax, ip := s.ip + 1#8 }) ∧
    (nextOpcode s = 0x0A#8 → step s = .next { s with ir := 0x0A#8, sp := s.bx, ip := s.ip + 1#8 }) ∧
    (nextOpcode s = 0x0B#8 → step s = .next { s with ir := 0x0B#8, bp := s.ax, ip := s.ip + 1#8 }) ∧
    (nextOpcode s = 0x0C#8 → step s = .next { s with ir := 0x0C#8, bp := s.bx, ip := s.ip + 1#8 })

/-- R101, R102 and R104: a push of AX, BX or FLAGS stores the byte at `SP` and moves `SP` one down; every other cell
reads as before. The FLAGS byte stored has bit 0 clear, because the Processor is Running. -/
def Obligations.PushOneTick : Prop :=
  ∀ s : State, ready s = true →
    (nextOpcode s = 0x0D#8 → ∃ t, step s = .next t ∧
      t = { s with ir := 0x0D#8, sp := s.sp - 1#8, ip := s.ip + 1#8, mem := t.mem } ∧
      ∀ a : Byte, memRead t.mem a = if a = s.sp then s.ax else memRead s.mem a) ∧
    (nextOpcode s = 0x0E#8 → ∃ t, step s = .next t ∧
      t = { s with ir := 0x0E#8, sp := s.sp - 1#8, ip := s.ip + 1#8, mem := t.mem } ∧
      ∀ a : Byte, memRead t.mem a = if a = s.sp then s.bx else memRead s.mem a) ∧
    (nextOpcode s = 0x10#8 → ∃ t, step s = .next t ∧
      t = { s with ir := 0x10#8, sp := s.sp - 1#8, ip := s.ip + 1#8, mem := t.mem } ∧
      s.flags.getLsbD 0 = false ∧ ∀ a : Byte, memRead t.mem a = if a = s.sp then s.flags else memRead s.mem a)

/-- R103 and R105: PUSH_REG stores AX at `S` and BX at `S - 1`, PUSH_ALL also FLAGS (its bit 0 clear) at `S - 2`; every
other cell reads as before and `SP` moves down by the number of bytes. -/
def Obligations.PushManyTick : Prop :=
  ∀ s : State, ready s = true →
    (nextOpcode s = 0x0F#8 → ∃ t, step s = .next t ∧
      t = { s with ir := 0x0F#8, sp := s.sp - 2#8, ip := s.ip + 1#8, mem := t.mem } ∧
      memRead t.mem s.sp = s.ax ∧ memRead t.mem (s.sp - 1#8) = s.bx ∧
      ∀ a : Byte, a ≠ s.sp → a ≠ s.sp - 1#8 → memRead t.mem a = memRead s.mem a) ∧
    (nextOpcode s = 0x11#8 → ∃ t, step s = .next t ∧
      t = { s with ir := 0x11#8, sp := s.sp - 3#8, ip := s.ip + 1#8, mem := t.mem } ∧
      memRead t.mem s.sp = s.ax ∧ memRead t.mem (s.sp - 1#8) = s.bx ∧ memRead t.mem (s.sp - 2#8) = s.flags ∧
      s.flags.getLsbD 0 = false ∧
      ∀ a : Byte, a ≠ s.sp → a ≠ s.sp - 1#8 → a ≠ s.sp - 2#8 → memRead t.mem a = memRead s.mem a)

/-- R111 to R113: POP_AX and POP_BX load the cell above `SP` and move `SP` there; POP_REG loads BX from the first cell
above and AX from the second. No flag and no memory cell changes. -/
def Obligations.PopRegisterTick : Prop :=
  ∀ s : State, ready s = true →
    (nextOpcode s = 0x12#8 → step s =
      .next { s with ir := 0x12#8, sp := s.sp + 1#8, ax := memRead s.mem (s.sp + 1#8), ip := s.ip + 1#8 }) ∧
    (nextOpcode s = 0x13#8 → step s =
      .next { s with ir := 0x13#8, sp := s.sp + 1#8, bx := memRead s.mem (s.sp + 1#8), ip := s.ip + 1#8 }) ∧
    (nextOpcode s = 0x14#8 → step s =
      .next { s with ir := 0x14#8, sp := s.sp + 2#8, bx := memRead s.mem (s.sp + 1#8),
                     ax := memRead s.mem (s.sp + 2#8), ip := s.ip + 1#8 })

/-- R114 and R115: POP_FLAG and POP_ALL load all eight bits of FLAGS from the cell above `SP`; `IP` moves on where the
byte has bit 0 clear and stays where it has bit 0 set, and POP_ALL loads BX and AX in either case. -/
def Obligations.PopFlagsTick : Prop :=
  ∀ s : State, ready s = true →
    (nextOpcode s = 0x15#8 → step s =
      .next { s with ir := 0x15#8, sp := s.sp + 1#8, flags := memRead s.mem (s.sp + 1#8),
                     ip := if (memRead s.mem (s.sp + 1#8)).getLsbD 0 then s.ip else s.ip + 1#8 }) ∧
    (nextOpcode s = 0x16#8 → step s =
      .next { s with ir := 0x16#8, sp := s.sp + 3#8, flags := memRead s.mem (s.sp + 1#8),
                     bx := memRead s.mem (s.sp + 2#8), ax := memRead s.mem (s.sp + 3#8),
                     ip := if (memRead s.mem (s.sp + 1#8)).getLsbD 0 then s.ip else s.ip + 1#8 })

/-- R117: a FLAGS pop of a byte with bit 0 set halts the Processor with `IP` at the pop, `IR` its opcode, and the handler
completed in full: `SP` has moved and POP_ALL has loaded BX and AX. -/
def Obligations.FlagsPopHalts : Prop :=
  ∀ s : State, ready s = true → (memRead s.mem (s.sp + 1#8)).getLsbD 0 = true →
    nextOpcode s = 0x15#8 ∨ nextOpcode s = 0x16#8 →
    ∃ t, step s = .next t ∧ ready t = false ∧ t.ip = s.ip ∧ t.ir = nextOpcode s ∧
      t.flags = memRead s.mem (s.sp + 1#8) ∧
      (nextOpcode s = 0x15#8 → t.sp = s.sp + 1#8 ∧ haltCause t = some .popFLAG) ∧
      (nextOpcode s = 0x16#8 → t.sp = s.sp + 3#8 ∧ t.bx = memRead s.mem (s.sp + 2#8) ∧
        t.ax = memRead s.mem (s.sp + 3#8) ∧ haltCause t = some .popALL)

/-- R121: JUMP_ADDR moves `IP` to the operand byte's value, 0x00 among them. -/
def Obligations.JumpAlwaysTick : Prop :=
  ∀ s : State, ready s = true → nextOpcode s = 0x17#8 → step s = .next { s with ir := 0x17#8, ip := nextOperand s }

/-- R122: JUMP_CRRY jumps where FLAGS bit 4 is set and goes on to the next instruction where it is not. -/
def Obligations.JumpOnCarryTick : Prop :=
  ∀ s : State, ready s = true → nextOpcode s = 0x18#8 →
    step s = .next { s with ir := 0x18#8, ip := if s.flags.getLsbD 4 = true then nextOperand s else s.ip + 2#8 }

/-- R123 to R128: the six comparing jumps, on unsigned comparisons of AX with BX. -/
def Obligations.JumpOnComparisonTick : Prop :=
  ∀ s : State, ready s = true →
    (nextOpcode s = 0x19#8 →
      step s = .next { s with ir := 0x19#8, ip := if s.ax = s.bx then nextOperand s else s.ip + 2#8 }) ∧
    (nextOpcode s = 0x1A#8 →
      step s = .next { s with ir := 0x1A#8, ip := if s.ax ≠ s.bx then nextOperand s else s.ip + 2#8 }) ∧
    (nextOpcode s = 0x1B#8 →
      step s = .next { s with ir := 0x1B#8, ip := if s.ax.toNat > s.bx.toNat then nextOperand s else s.ip + 2#8 }) ∧
    (nextOpcode s = 0x1C#8 →
      step s = .next { s with ir := 0x1C#8, ip := if s.ax.toNat < s.bx.toNat then nextOperand s else s.ip + 2#8 }) ∧
    (nextOpcode s = 0x1D#8 →
      step s = .next { s with ir := 0x1D#8, ip := if s.ax.toNat ≥ s.bx.toNat then nextOperand s else s.ip + 2#8 }) ∧
    (nextOpcode s = 0x1E#8 →
      step s = .next { s with ir := 0x1E#8, ip := if s.ax.toNat ≤ s.bx.toNat then nextOperand s else s.ip + 2#8 })

/-! ### Rules about the whole machine -/

/-- The net effect of a tick on `IP`, for every instruction class (R71), with the class that halts spelt out: HALT, an
unrecognised opcode, or a FLAGS pop of a byte with bit 0 set. -/
def Obligations.NetEffectOnIP : Prop :=
  ∀ s t : State, ready s = true → step s = .next t →
    (ready t = false ↔ nextOpcode s = 0x00#8 ∨ 0x1F ≤ (nextOpcode s).toNat ∨
      ((nextOpcode s = 0x15#8 ∨ nextOpcode s = 0x16#8) ∧ (memRead s.mem (s.sp + 1#8)).getLsbD 0 = true)) ∧
    (ready t = false → t.ip = s.ip) ∧
    (ready t = true → opcodeLength (nextOpcode s) = 1 → t.ip = s.ip + 1#8) ∧
    (nextOpcode s = 0x01#8 ∨ nextOpcode s = 0x05#8 → t.ip = s.ip + 2#8) ∧
    (0x17 ≤ (nextOpcode s).toNat → (nextOpcode s).toNat ≤ 0x1E →
      t.ip = if jumpCondition (nextOpcode s) s then nextOperand s else s.ip + 2#8)

/-- Which instruction may write what (R24, the written-by column): a register, FLAGS or a memory cell that a tick changes
is one that the fetched opcode's instruction writes, and `IR` holds that opcode. -/
def Obligations.OnlyListedInstructionsWrite : Prop :=
  ∀ s t : State, ready s = true → step s = .next t →
    t.ir = nextOpcode s ∧
    (t.ax ≠ s.ax → (nextOpcode s).toNat ∈ [0x01, 0x02, 0x03, 0x04, 0x12, 0x14, 0x16]) ∧
    (t.bx ≠ s.bx → (nextOpcode s).toNat ∈ [0x05, 0x06, 0x07, 0x08, 0x13, 0x14, 0x16]) ∧
    (t.sp ≠ s.sp → (nextOpcode s).toNat ∈
      [0x09, 0x0A, 0x0D, 0x0E, 0x0F, 0x10, 0x11, 0x12, 0x13, 0x14, 0x15, 0x16]) ∧
    (t.bp ≠ s.bp → (nextOpcode s).toNat ∈ [0x0B, 0x0C]) ∧
    (t.flags ≠ s.flags → (nextOpcode s).toNat ∈ [0x00, 0x15, 0x16] ∨ 0x1F ≤ (nextOpcode s).toNat) ∧
    ((∃ a : Byte, memRead t.mem a ≠ memRead s.mem a) → (nextOpcode s).toNat ∈ [0x0D, 0x0E, 0x0F, 0x10, 0x11])

/-- CARRY and the six reserved bits of FLAGS are plain storage: only POP_FLAG and POP_ALL change one of them, and what
they store is the matching bit of the byte above `SP` (R18, R19). -/
def Obligations.OnlyFlagsPopsChangeOtherBits : Prop :=
  ∀ (s t : State) (n : Nat), step s = .next t → n ≠ 0 → t.flags.getLsbD n ≠ s.flags.getLsbD n →
    ready s = true ∧ (nextOpcode s = 0x15#8 ∨ nextOpcode s = 0x16#8) ∧
    t.flags.getLsbD n = (memRead s.mem (s.sp + 1#8)).getLsbD n

/-- `IR` is decoded only after a Fetch has overwritten it: what it held before a tick of a Running Processor makes no
difference (R15, R23). -/
def Obligations.OldIRMakesNoDifference : Prop :=
  ∀ (s : State) (v : Byte), ready s = true → step { s with ir := v } = step s

/-- `BP` has no function (R13): but for the two copies from it and the two to it, a tick neither depends on it nor changes
it. -/
def Obligations.BPHasNoFunction : Prop :=
  ∀ (s t : State) (v : Byte), ready s = true → (nextOpcode s).toNat ∉ [0x04, 0x08, 0x0B, 0x0C] → step s = .next t →
    t.bp = s.bp ∧ step { s with bp := v } = .next { t with bp := v }

/-- The reserved bits of FLAGS affect nothing but the byte that PUSH_FLAG and PUSH_ALL store and the reserved bits of the
next FLAGS (R16, R19): two Running states that agree on everything but those bits take ticks to states that agree on
every register but FLAGS, on HALT and CARRY, and on every cell but the one FLAGS is pushed to; in that cell each finds
its own FLAGS. -/
def Obligations.ReservedFlagsAffectNothing : Prop :=
  ∀ (s t : State) (f : Byte), ready s = true → f.getLsbD 0 = false → f.getLsbD 4 = s.flags.getLsbD 4 →
    step s = .next t →
    ∃ u : State, step { s with flags := f } = .next u ∧ u = { t with flags := u.flags, mem := u.mem } ∧
      u.flags.getLsbD 0 = t.flags.getLsbD 0 ∧ u.flags.getLsbD 4 = t.flags.getLsbD 4 ∧
      ((nextOpcode s).toNat ∉ [0x10, 0x11] → u.mem = t.mem) ∧
      (nextOpcode s = 0x10#8 → memRead u.mem s.sp = f ∧ memRead t.mem s.sp = s.flags ∧
        ∀ a : Byte, a ≠ s.sp → memRead u.mem a = memRead t.mem a) ∧
      (nextOpcode s = 0x11#8 → memRead u.mem (s.sp - 2#8) = f ∧ memRead t.mem (s.sp - 2#8) = s.flags ∧
        ∀ a : Byte, a ≠ s.sp - 2#8 → memRead u.mem a = memRead t.mem a)

/-- R116: a push followed at once by its mirror pop gives back the registers pushed, `FLAGS` and `SP`, and leaves the
pushed bytes in their cells, wherever the stack wraps; PUSH_ALL followed by POP_REG pops FLAGS into BX and the old BX
into AX. The pop's opcode is read from the state the push leaves, so a push that overwrites it is no instance. -/
def Obligations.PushPopRoundTrips : Prop :=
  ∀ s t u : State, ready s = true → step s = .next t → step t = .next u →
    (nextOpcode s = 0x11#8 → nextOpcode t = 0x16#8 →
      u.ax = s.ax ∧ u.bx = s.bx ∧ u.flags = s.flags ∧ u.sp = s.sp ∧ memRead u.mem s.sp = s.ax ∧
        memRead u.mem (s.sp - 1#8) = s.bx ∧ memRead u.mem (s.sp - 2#8) = s.flags) ∧
    (nextOpcode s = 0x0F#8 → nextOpcode t = 0x14#8 →
      u.ax = s.ax ∧ u.bx = s.bx ∧ u.flags = s.flags ∧ u.sp = s.sp ∧ memRead u.mem s.sp = s.ax ∧
        memRead u.mem (s.sp - 1#8) = s.bx) ∧
    (nextOpcode s = 0x0D#8 → nextOpcode t = 0x12#8 →
      u.ax = s.ax ∧ u.bx = s.bx ∧ u.flags = s.flags ∧ u.sp = s.sp ∧ memRead u.mem s.sp = s.ax) ∧
    (nextOpcode s = 0x0E#8 → nextOpcode t = 0x13#8 →
      u.ax = s.ax ∧ u.bx = s.bx ∧ u.flags = s.flags ∧ u.sp = s.sp ∧ memRead u.mem s.sp = s.bx) ∧
    (nextOpcode s = 0x10#8 → nextOpcode t = 0x15#8 →
      u.ax = s.ax ∧ u.bx = s.bx ∧ u.flags = s.flags ∧ u.sp = s.sp ∧ memRead u.mem s.sp = s.flags) ∧
    (nextOpcode s = 0x11#8 → nextOpcode t = 0x14#8 → u.bx = s.flags ∧ u.ax = s.bx)

/-- R106: after a sequence of pushes (at most 255: one more would write the cell that `SP` then addresses) from `SP` = `S`, the k-th byte pushed is in cell `S - k`, `SP` is as many
lower as bytes were pushed, and no other cell has changed, the one `SP` addresses among them. -/
def Obligations.StackAsPushesLeaveIt : Prop :=
  ∀ (s t : State) (vs : List Byte), vs.length ≤ 255 → t = vs.foldl (fun s v => push v s) s →
    t = { s with sp := s.sp - BitVec.ofNat 8 vs.length, mem := t.mem } ∧
    (∀ k : Nat, k < vs.length → memRead t.mem (s.sp - BitVec.ofNat 8 k) = vs.getD k 0x00#8) ∧
    (∀ a : Byte, (∀ k : Nat, k < vs.length → a ≠ s.sp - BitVec.ofNat 8 k) → memRead t.mem a = memRead s.mem a) ∧
    memRead t.mem t.sp = memRead s.mem t.sp

/-- A store is seen from the very next tick on (R43), for each of the five pushes and each byte it stores: where the cell
is the one at the next `IP`, the next tick's Fetch puts that byte in `IR`; where it is the one after, the operand fetch of
the next tick finds it: LOAD_AX and LOAD_BX load it, and a jump that is taken goes to it. -/
def Obligations.PushedByteIsFetchedNext : Prop :=
  ∀ s : State, ready s = true → 0x0D ≤ (nextOpcode s).toNat → (nextOpcode s).toNat ≤ 0x11 →
    pushedBytes s ≠ [] ∧
    ∃ t u, step s = .next t ∧ ready t = true ∧ t.ip = s.ip + 1#8 ∧ step t = .next u ∧
      ∀ (k : Nat) (v : Byte), (pushedBytes s)[k]? = some v →
        (s.sp - BitVec.ofNat 8 k = s.ip + 1#8 → nextOpcode t = v ∧ u.ir = v) ∧
        (s.sp - BitVec.ofNat 8 k = s.ip + 2#8 → nextOperand t = v ∧
          (nextOpcode t = 0x01#8 → u.ax = v) ∧ (nextOpcode t = 0x05#8 → u.bx = v) ∧
          (jumpCondition (nextOpcode t) t = true → u.ip = v))

/-! ### The accesses of a tick -/

/-- R72: the accesses of a tick, in order, for every instruction. -/
def Obligations.AccessesInOrder : Prop :=
  ∀ s : State, ready s = true →
    ((nextOpcode s).toNat ∈ [0x00, 0x02, 0x03, 0x04, 0x06, 0x07, 0x08, 0x09, 0x0A, 0x0B, 0x0C] ∨
        0x1F ≤ (nextOpcode s).toNat →
      tickAccesses s = [.read s.ip (nextOpcode s)]) ∧
    ((nextOpcode s).toNat ∈ [0x01, 0x05] →
      tickAccesses s = [.read s.ip (nextOpcode s), .read (s.ip + 1#8) (nextOperand s)]) ∧
    (nextOpcode s = 0x0D#8 → tickAccesses s = [.read s.ip 0x0D#8, .write s.sp s.ax]) ∧
    (nextOpcode s = 0x0E#8 → tickAccesses s = [.read s.ip 0x0E#8, .write s.sp s.bx]) ∧
    (nextOpcode s = 0x0F#8 →
      tickAccesses s = [.read s.ip 0x0F#8, .write s.sp s.ax, .write (s.sp - 1#8) s.bx]) ∧
    (nextOpcode s = 0x10#8 → tickAccesses s = [.read s.ip 0x10#8, .write s.sp s.flags]) ∧
    (nextOpcode s = 0x11#8 →
      tickAccesses s =
        [.read s.ip 0x11#8, .write s.sp s.ax, .write (s.sp - 1#8) s.bx, .write (s.sp - 2#8) s.flags]) ∧
    ((nextOpcode s).toNat ∈ [0x12, 0x13, 0x15] →
      tickAccesses s = [.read s.ip (nextOpcode s), .read (s.sp + 1#8) (memRead s.mem (s.sp + 1#8))]) ∧
    (nextOpcode s = 0x14#8 →
      tickAccesses s = [.read s.ip 0x14#8, .read (s.sp + 1#8) (memRead s.mem (s.sp + 1#8)),
        .read (s.sp + 2#8) (memRead s.mem (s.sp + 2#8))]) ∧
    (nextOpcode s = 0x16#8 →
      tickAccesses s = [.read s.ip 0x16#8, .read (s.sp + 1#8) (memRead s.mem (s.sp + 1#8)),
        .read (s.sp + 2#8) (memRead s.mem (s.sp + 2#8)), .read (s.sp + 3#8) (memRead s.mem (s.sp + 3#8))]) ∧
    (0x17 ≤ (nextOpcode s).toNat → (nextOpcode s).toNat ≤ 0x1E →
      tickAccesses s = .read s.ip (nextOpcode s) ::
        if jumpCondition (nextOpcode s) s then [.read (s.ip + 1#8) (nextOperand s)] else [])

/-- The access list and the step are two accounts of one machine: replayed on the memory before the tick, in order, every
read finds the byte it is said to return, and the writes leave exactly the memory after the tick (R41, R72). -/
def Obligations.AccessesExplainTheTick : Prop :=
  ∀ s t : State, step s = .next t → replay (tickAccesses s) s.mem = some t.mem

/-- A tick of a Running Processor makes one to four memory accesses, the first the Fetch read (R72, R164). -/
def Obligations.OneToFourAccesses : Prop :=
  ∀ s : State, ready s = true →
    1 ≤ (tickAccesses s).length ∧ (tickAccesses s).length ≤ 4 ∧
    (tickAccesses s).head? = some (.read s.ip (nextOpcode s))

/-! ### Invariants of the step, runs and the host -/

/-- Every step keeps the canonical form of memory (log entry 3): addresses rise and stay below 256, and no zero is
listed. -/
def Obligations.StepKeepsCanonicalMemory : Prop :=
  ∀ s t : State, State.wf s = true → step s = .next t → State.wf t = true

/-- The canonical form holds at reset and after any image is loaded. -/
def Obligations.CanonicalMemoryAtStart : Prop :=
  State.wf State.reset = true ∧
  ∀ (img : List Byte) (s : State), loadImage img State.reset = some s → State.wf s = true

/-- Every step, from every state, keeps the record that a halt leaves (R82, R138): in a Halted state `IR` tells one of the
four causes and the byte at `IP` is still the one in `IR`. -/
def Obligations.StepKeepsHaltRecord : Prop := ∀ s t : State, HaltRecord s → step s = .next t → HaltRecord t

/-- The record holds at reset and after any image is loaded, and there the Processor is Running, so that it says nothing
yet (R156). -/
def Obligations.HaltRecordAtStart : Prop :=
  HaltRecord State.reset ∧
  ∀ (img : List Byte) (s : State), loadImage img State.reset = some s → HaltRecord s ∧ ready s = true

/-- R82: in the Halted state of a run that began at reset, `IR` is 0x00, 0x15, 0x16 or a byte from 0x1F on and tells the
cause, and `IP` is the address of that instruction: the run's last tick of a Running Processor fetched that byte at that
address, and the byte is still there. -/
def Obligations.HaltedRunTellsItsCause : Prop :=
  ∀ s : State, Reachable s → ready s = false →
    ((s.ir = 0x00#8 ∧ haltCause s = some .haltInstruction) ∨
      (s.ir = 0x15#8 ∧ haltCause s = some .popFLAG) ∨ (s.ir = 0x16#8 ∧ haltCause s = some .popALL) ∨
      (0x1F ≤ s.ir.toNat ∧ haltCause s = some (.unrecognised s.ir))) ∧
    nextOpcode s = s.ir ∧
    ∃ p : State, Reachable p ∧ ready p = true ∧ step p = .next s ∧ p.ip = s.ip ∧ nextOpcode p = s.ir

/-- Whatever the host does through its five operations (R75), memory stays in canonical form and a halt's record stays
true; and until the first tick since Reset every register is still zero, LoadImage included (R157). The canonical form is
the model's representation (log entry 3), and `ticked` is the model's bit for 'before the first tick' (log entry 8). -/
def Obligations.HostCannotBreakTheBlock : Prop :=
  ∀ h : Session, SessionReachable h →
    State.wf h.block = true ∧ HaltRecord h.block ∧
    (h.ticked = false → h.block = { State.reset with mem := h.block.mem })

/-- What each host operation answers and what it leaves unchanged (R75 to R78), from every session: Reset starts a new run
with every register and cell zero; LoadImage of at most 256 bytes before the first tick writes the bytes to the cells
from 0 on and leaves every other cell and every register alone; Ready, Snapshot and the reading of a cell change nothing
and tell the block's state; a tick is one step and is always answered. An image of more than 256 bytes is refused. That a
LoadImage which is not allowed answers `none`, and that `ticked` is what remembers the first tick, is the model's choice
(log entry 8); that LoadImage may be repeated before the first tick, over the cells the earlier one left, is its reading
of R75 and R76 (log entry 9). -/
def Obligations.HostOperations : Prop :=
  ∀ h : Session,
    (∃ h', hostStep .reset h = some (h', .nothing) ∧ h'.ticked = false ∧
      h'.block = { ax := 0x00#8, bx := 0x00#8, sp := 0x00#8, bp := 0x00#8, ip := 0x00#8, ir := 0x00#8,
                   flags := 0x00#8, mem := h'.block.mem } ∧ ∀ a : Byte, memRead h'.block.mem a = 0x00#8) ∧
    (∀ img : List Byte, h.ticked = true ∨ 256 < img.length → hostStep (.loadImage img) h = none) ∧
    (∀ img : List Byte, h.ticked = false → img.length ≤ 256 →
      ∃ h', hostStep (.loadImage img) h = some (h', .nothing) ∧ h'.ticked = false ∧
        h'.block = { h.block with mem := h'.block.mem } ∧
        ∀ a : Byte, memRead h'.block.mem a = img.getD a.toNat (memRead h.block.mem a)) ∧
    hostStep .ready h = some (h, .isReady (!h.block.flags.getLsbD 0)) ∧
    hostStep .snapshot h = some (h, .registers ⟨h.block.ax, h.block.bx, h.block.sp, h.block.bp, h.block.ip,
      h.block.ir, h.block.flags⟩) ∧
    (∀ a : Byte, hostStep (.readCell a) h = some (h, .cell (memRead h.block.mem a))) ∧
    ∃ t, step h.block = .next t ∧ hostStep .tick h = some (⟨t, true⟩, .nothing)

/-- The load pins of R79 carry LoadImage: one pulse per byte, at addresses 0, 1, …, from a session that has not ticked,
leaves the session that LoadImage of those bytes leaves. From a session that has loaded before, both overlay what the
earlier load left: that LoadImage may be repeated so is the model's reading of R75 and R76 (log entry 9). -/
def Obligations.LoadPulsesMakeAnImage : Prop :=
  ∀ (img : List Byte) (h : Session) (s : State), h.ticked = false → loadImage img h.block = some s →
    (img.zipIdx).foldl
        (fun h b => pinLoad ⟨false, true, BitVec.ofNat 8 b.2, b.1, false, 0x00#8⟩ h) h = { h with block := s }

/-- The request pins of R79 carry the host's operations: `reset` is Reset, `tick` is one tick and is ignored while `ready`
is low, a load pulse loads its cell before the first tick and has no effect after it, and no request changes nothing. With
several of them high, those that R79 ignores (a load after the first tick, a tick while `ready` is low) make no
difference. That a pin acts at a tick boundary as one host operation, on the session as it is there, that a load after
the first tick leaves the session as it is, and that two requests which would both act, in an order the spec does not
give, answer `none`, is the model's choice (log entry 10), and so is the bit `ticked` (log entry 8). -/
def Obligations.PinsCarryHostOperations : Prop :=
  ∀ (h : Session) (addr data dbg : Byte),
    pinCycle ⟨true, false, addr, data, false, dbg⟩ h = some Session.start ∧
    pinCycle ⟨false, false, addr, data, false, dbg⟩ h = some h ∧
    (h.ticked = true → pinCycle ⟨false, true, addr, data, false, dbg⟩ h = some h) ∧
    (h.ticked = false → ∃ h', pinCycle ⟨false, true, addr, data, false, dbg⟩ h = some h' ∧
      h' = { h with block := { h.block with mem := h'.block.mem } } ∧
      ∀ a : Byte, memRead h'.block.mem a = if a = addr then data else memRead h.block.mem a) ∧
    (halted h.block = true → pinCycle ⟨false, false, addr, data, true, dbg⟩ h = some h) ∧
    (halted h.block = false → ∃ t, step h.block = .next t ∧
      pinCycle ⟨false, false, addr, data, true, dbg⟩ h = some ⟨t, true⟩) ∧
    (h.ticked = true → pinCycle ⟨false, true, addr, data, true, dbg⟩ h =
      pinCycle ⟨false, false, addr, data, true, dbg⟩ h) ∧
    (h.ticked = false → halted h.block = true → pinCycle ⟨false, true, addr, data, true, dbg⟩ h =
      pinCycle ⟨false, true, addr, data, false, dbg⟩ h) ∧
    (h.ticked = false → halted h.block = false → pinCycle ⟨false, true, addr, data, true, dbg⟩ h = none) ∧
    (∀ load tick : Bool, (load = true → h.ticked = true) → (tick = true → halted h.block = true) →
      pinCycle ⟨true, load, addr, data, tick, dbg⟩ h = some Session.start) ∧
    (∀ load tick : Bool, (load = true ∧ h.ticked = false) ∨ (tick = true ∧ halted h.block = false) →
      pinCycle ⟨true, load, addr, data, tick, dbg⟩ h = none)
end

