-- ==== Sys2Proof/Laws/Memory.lean ====
section
/-! SUPPORT. The Memory Bank's laws (20_memory.md R31, R32): a read after a write, on every list of cells, and the
canonical form, which every memory operation keeps. -/

namespace Sys2Proof.Machine

/-! ### Reading -/

theorem cellsRead_erase (a b : Nat) (cs : List Host.Cell) :
    cellsRead b (cellsErase a cs) = if b = a then Config.resetByte else cellsRead b cs := by
  induction cs with
  | nil => simp [cellsErase, cellsRead]
  | cons c cs ih =>
    simp only [cellsErase, List.filter_cons] at ih ⊢
    by_cases hca : c.1 = a
    · by_cases hba : b = a
      · simp_all
      · have : c.1 ≠ b := by omega
        simp_all [cellsRead]
    · by_cases hcb : c.1 = b
      · have : b ≠ a := by omega
        simp_all [cellsRead]
      · simp_all [cellsRead]

theorem cellsRead_insert (a b : Nat) (v : Byte) (cs : List Host.Cell) (absent : cellsErase a cs = cs) :
    cellsRead b (cellsInsert a v cs) = if b = a then v else cellsRead b cs := by
  induction cs with
  | nil => simp [cellsInsert, cellsRead, eq_comm]
  | cons c cs ih =>
    have hc : c.1 ≠ a ∧ cellsErase a cs = cs := by
      have h := List.filter_eq_self.mp absent
      exact ⟨by simpa using h c (by simp), List.filter_eq_self.mpr fun d hd => h d (by simp [hd])⟩
    unfold cellsInsert
    split
    · by_cases hb : b = a
      · simp [cellsRead, hb]
      · have : a ≠ b := fun h => hb h.symm
        simp [cellsRead, hb, this]
    · by_cases hb : b = a
      · subst hb; simp [cellsRead, hc.1, ih hc.2]
      · simp [cellsRead, ih hc.2, hb]

theorem cellsErase_erase (a : Nat) (cs : List Host.Cell) : cellsErase a (cellsErase a cs) = cellsErase a cs := by
  simp [cellsErase, List.filter_filter]

/-- R31 and R32: after a write, cell `a` holds `v` and every other cell is unchanged. -/
@[simp] theorem memRead_memWrite (m : Memory) (a b v : Byte) :
    memRead (memWrite m a v) b = if b = a then v else memRead m b := by
  unfold memRead memWrite
  split
  · next h => simp [cellsRead_erase, BitVec.toNat_inj, h]
  · simp only [cellsRead_insert _ _ _ _ (cellsErase_erase _ _), cellsRead_erase, BitVec.toNat_inj]
    by_cases h : b = a <;> simp [h]

/-- Reset memory reads as zero everywhere (R20). -/
@[simp] theorem memRead_nil (a : Byte) : memRead [] a = 0x00#8 := rfl

/-! ### The canonical form -/

theorem risingAddresses_iff (cs : List Host.Cell) :
    risingAddresses cs = true ↔ cs.Pairwise fun c d => c.1 < d.1 := by
  induction cs with
  | nil => simp [risingAddresses]
  | cons c cs ih => simp [risingAddresses, ih, List.pairwise_cons]

/-- The canonical form as a proposition. -/
theorem wf_iff (m : Memory) :
    Memory.wf m = true ↔
      m.Pairwise (fun c d => c.1 < d.1) ∧ ∀ c ∈ m, c.1 < Config.memorySize ∧ c.2 ≠ Config.resetByte := by
  simp [Memory.wf, risingAddresses_iff]

theorem mem_cellsInsert (a : Nat) (v : Byte) (cs : List Host.Cell) (c : Host.Cell) :
    c ∈ cellsInsert a v cs ↔ c = (a, v) ∨ c ∈ cs := by
  induction cs with
  | nil => simp [cellsInsert]
  | cons d cs ih =>
    unfold cellsInsert
    split
    · simp
    · simp [ih, or_left_comm]

theorem cellsInsert_rising (a : Nat) (v : Byte) (cs : List Host.Cell) (rising : cs.Pairwise fun c d => c.1 < d.1)
    (absent : ∀ c ∈ cs, c.1 ≠ a) : (cellsInsert a v cs).Pairwise fun c d => c.1 < d.1 := by
  induction cs with
  | nil => simp [cellsInsert]
  | cons c cs ih =>
    rw [List.pairwise_cons] at rising
    unfold cellsInsert
    split
    · next h =>
      refine List.pairwise_cons.mpr ⟨fun d hd => ?_, List.pairwise_cons.mpr rising⟩
      rcases List.mem_cons.mp hd with rfl | hd
      · exact h
      · exact h.trans (rising.1 d hd)
    · next h =>
      refine List.pairwise_cons.mpr ⟨fun d hd => ?_, ih rising.2 fun d hd => absent d (by simp [hd])⟩
      rcases (mem_cellsInsert ..).mp hd with rfl | hd
      · have := absent c (by simp)
        show c.1 < a
        omega
      · exact rising.1 d hd

/-- A write keeps the canonical form. -/
theorem memWrite_wf (m : Memory) (a v : Byte) (h : Memory.wf m = true) : Memory.wf (memWrite m a v) = true := by
  rw [wf_iff] at h ⊢
  have rising : (cellsErase a.toNat m).Pairwise fun c d => c.1 < d.1 := h.1.filter _
  have kept : ∀ c ∈ cellsErase a.toNat m, c ∈ m ∧ c.1 ≠ a.toNat := by
    intro c hc; simpa [cellsErase] using hc
  unfold memWrite
  split
  · exact ⟨rising, fun c hc => h.2 c (kept c hc).1⟩
  · next hv =>
    refine ⟨cellsInsert_rising _ _ _ rising fun c hc => (kept c hc).2, fun c hc => ?_⟩
    rcases (mem_cellsInsert ..).mp hc with rfl | hc
    · exact ⟨a.isLt, hv⟩
    · exact h.2 c (kept c hc).1

/-- Storing the bytes of an image keeps the canonical form. -/
theorem loadBytes_wf (img : List Byte) (at_ : Byte) (m : Memory) (h : Memory.wf m = true) :
    Memory.wf (loadBytes at_ img m) = true := by
  induction img generalizing at_ m with
  | nil => exact h
  | cons b img ih => exact ih _ _ (memWrite_wf m at_ b h)

end Sys2Proof.Machine
end

