-- ==== Sys2Proof/Laws/State.lean ====
section
/-! SUPPORT. What each update of one field does to each field of the state. -/

namespace Sys2Proof.Machine.State

section
variable (v : Byte) (s : State)

@[simp] theorem setAX_ax : (s.setAX v).ax = v := rfl
@[simp] theorem setAX_bx : (s.setAX v).bx = s.bx := rfl
@[simp] theorem setAX_sp : (s.setAX v).sp = s.sp := rfl
@[simp] theorem setAX_bp : (s.setAX v).bp = s.bp := rfl
@[simp] theorem setAX_ip : (s.setAX v).ip = s.ip := rfl
@[simp] theorem setAX_ir : (s.setAX v).ir = s.ir := rfl
@[simp] theorem setAX_flags : (s.setAX v).flags = s.flags := rfl
@[simp] theorem setAX_mem : (s.setAX v).mem = s.mem := rfl

end

section
variable (v : Byte) (s : State)

@[simp] theorem setBX_ax : (s.setBX v).ax = s.ax := rfl
@[simp] theorem setBX_bx : (s.setBX v).bx = v := rfl
@[simp] theorem setBX_sp : (s.setBX v).sp = s.sp := rfl
@[simp] theorem setBX_bp : (s.setBX v).bp = s.bp := rfl
@[simp] theorem setBX_ip : (s.setBX v).ip = s.ip := rfl
@[simp] theorem setBX_ir : (s.setBX v).ir = s.ir := rfl
@[simp] theorem setBX_flags : (s.setBX v).flags = s.flags := rfl
@[simp] theorem setBX_mem : (s.setBX v).mem = s.mem := rfl

end

section
variable (v : Byte) (s : State)

@[simp] theorem setSP_ax : (s.setSP v).ax = s.ax := rfl
@[simp] theorem setSP_bx : (s.setSP v).bx = s.bx := rfl
@[simp] theorem setSP_sp : (s.setSP v).sp = v := rfl
@[simp] theorem setSP_bp : (s.setSP v).bp = s.bp := rfl
@[simp] theorem setSP_ip : (s.setSP v).ip = s.ip := rfl
@[simp] theorem setSP_ir : (s.setSP v).ir = s.ir := rfl
@[simp] theorem setSP_flags : (s.setSP v).flags = s.flags := rfl
@[simp] theorem setSP_mem : (s.setSP v).mem = s.mem := rfl

end

section
variable (v : Byte) (s : State)

@[simp] theorem setBP_ax : (s.setBP v).ax = s.ax := rfl
@[simp] theorem setBP_bx : (s.setBP v).bx = s.bx := rfl
@[simp] theorem setBP_sp : (s.setBP v).sp = s.sp := rfl
@[simp] theorem setBP_bp : (s.setBP v).bp = v := rfl
@[simp] theorem setBP_ip : (s.setBP v).ip = s.ip := rfl
@[simp] theorem setBP_ir : (s.setBP v).ir = s.ir := rfl
@[simp] theorem setBP_flags : (s.setBP v).flags = s.flags := rfl
@[simp] theorem setBP_mem : (s.setBP v).mem = s.mem := rfl

end

section
variable (v : Byte) (s : State)

@[simp] theorem setIP_ax : (s.setIP v).ax = s.ax := rfl
@[simp] theorem setIP_bx : (s.setIP v).bx = s.bx := rfl
@[simp] theorem setIP_sp : (s.setIP v).sp = s.sp := rfl
@[simp] theorem setIP_bp : (s.setIP v).bp = s.bp := rfl
@[simp] theorem setIP_ip : (s.setIP v).ip = v := rfl
@[simp] theorem setIP_ir : (s.setIP v).ir = s.ir := rfl
@[simp] theorem setIP_flags : (s.setIP v).flags = s.flags := rfl
@[simp] theorem setIP_mem : (s.setIP v).mem = s.mem := rfl

end

section
variable (v : Byte) (s : State)

@[simp] theorem setIR_ax : (s.setIR v).ax = s.ax := rfl
@[simp] theorem setIR_bx : (s.setIR v).bx = s.bx := rfl
@[simp] theorem setIR_sp : (s.setIR v).sp = s.sp := rfl
@[simp] theorem setIR_bp : (s.setIR v).bp = s.bp := rfl
@[simp] theorem setIR_ip : (s.setIR v).ip = s.ip := rfl
@[simp] theorem setIR_ir : (s.setIR v).ir = v := rfl
@[simp] theorem setIR_flags : (s.setIR v).flags = s.flags := rfl
@[simp] theorem setIR_mem : (s.setIR v).mem = s.mem := rfl

end

section
variable (v : Byte) (s : State)

@[simp] theorem setFlags_ax : (s.setFlags v).ax = s.ax := rfl
@[simp] theorem setFlags_bx : (s.setFlags v).bx = s.bx := rfl
@[simp] theorem setFlags_sp : (s.setFlags v).sp = s.sp := rfl
@[simp] theorem setFlags_bp : (s.setFlags v).bp = s.bp := rfl
@[simp] theorem setFlags_ip : (s.setFlags v).ip = s.ip := rfl
@[simp] theorem setFlags_ir : (s.setFlags v).ir = s.ir := rfl
@[simp] theorem setFlags_flags : (s.setFlags v).flags = v := rfl
@[simp] theorem setFlags_mem : (s.setFlags v).mem = s.mem := rfl

end

section
variable (v : Memory) (s : State)

@[simp] theorem setMem_ax : (s.setMem v).ax = s.ax := rfl
@[simp] theorem setMem_bx : (s.setMem v).bx = s.bx := rfl
@[simp] theorem setMem_sp : (s.setMem v).sp = s.sp := rfl
@[simp] theorem setMem_bp : (s.setMem v).bp = s.bp := rfl
@[simp] theorem setMem_ip : (s.setMem v).ip = s.ip := rfl
@[simp] theorem setMem_ir : (s.setMem v).ir = s.ir := rfl
@[simp] theorem setMem_flags : (s.setMem v).flags = s.flags := rfl
@[simp] theorem setMem_mem : (s.setMem v).mem = v := rfl

end

/-! Reset, field by field (R23). -/

@[simp] theorem reset_ax : reset.ax = 0x00#8 := rfl
@[simp] theorem reset_bx : reset.bx = 0x00#8 := rfl
@[simp] theorem reset_sp : reset.sp = 0x00#8 := rfl
@[simp] theorem reset_bp : reset.bp = 0x00#8 := rfl
@[simp] theorem reset_ip : reset.ip = 0x00#8 := rfl
@[simp] theorem reset_ir : reset.ir = 0x00#8 := rfl
@[simp] theorem reset_flags : reset.flags = 0x00#8 := rfl
@[simp] theorem reset_mem : reset.mem = [] := rfl

end Sys2Proof.Machine.State
end

