-- ==== Sys2Proof/Laws/Ops.lean ====
section
/-! SUPPORT. What each shared operation on the state does, said once: its equation as a record, from which every field
reads off, and its frame. -/

namespace Sys2Proof.Machine

variable (s : State) (v a : Byte) (r q : Reg)

/-! ### Registers -/

@[simp] theorem readReg_ax : readReg .ax s = s.ax := rfl
@[simp] theorem readReg_bx : readReg .bx s = s.bx := rfl
@[simp] theorem readReg_sp : readReg .sp s = s.sp := rfl
@[simp] theorem readReg_bp : readReg .bp s = s.bp := rfl
@[simp] theorem readReg_ip : readReg .ip s = s.ip := rfl
@[simp] theorem readReg_ir : readReg .ir s = s.ir := rfl
@[simp] theorem readReg_flags : readReg .flags s = s.flags := rfl

@[simp] theorem writeReg_ax : writeReg .ax v s = s.setAX v := rfl
@[simp] theorem writeReg_bx : writeReg .bx v s = s.setBX v := rfl
@[simp] theorem writeReg_sp : writeReg .sp v s = s.setSP v := rfl
@[simp] theorem writeReg_bp : writeReg .bp v s = s.setBP v := rfl
@[simp] theorem writeReg_ip : writeReg .ip v s = s.setIP v := rfl
@[simp] theorem writeReg_ir : writeReg .ir v s = s.setIR v := rfl
@[simp] theorem writeReg_flags : writeReg .flags v s = s.setFlags v := rfl

/-- The registers are seven separate homes: a write is read back from its own register and from no other (R10). -/
theorem readReg_writeReg : readReg q (writeReg r v s) = if q = r then v else readReg q s := by
  cases r <;> cases q <;> rfl

/-- A register write leaves memory alone (R22). -/
theorem writeReg_mem : (writeReg r v s).mem = s.mem := by cases r <;> rfl

/-! ### The phases, the halt and the operand forms -/

/-- Fetch writes `IR` and nothing else (R68). -/
theorem fetch_eq : fetch s = { s with ir := memRead s.mem s.ip } := rfl

/-- `incIP` writes `IP` and nothing else. -/
theorem incIP_eq : incIP s = { s with ip := s.ip + 1#8 } := rfl

/-- Advance writes `IP`, and only in a Running state (R70). -/
theorem advance_eq : advance s = { s with ip := if halted s then s.ip else s.ip + 1#8 } := by
  unfold advance; split <;> rfl

/-- `Halt()` writes `FLAGS` and nothing else (R7). -/
theorem haltProcessor_eq : haltProcessor s = { s with flags := withHaltFlag s.flags } := rfl

/-- After `Halt()` the Processor is Halted (R17). -/
@[simp] theorem halted_haltProcessor : halted (haltProcessor s) = true := by
  simp [halted, haltFlag, flagBit, haltProcessor, withHaltFlag, Config.haltBit]

/-- `ready` is the opposite of `halted` (R65). -/
theorem ready_eq_true : ready s = true ↔ halted s = false := by simp [ready]

/-- A store changes the cell it addresses and no other (R32). -/
theorem memRead_store (b : Byte) : memRead (store a v s).mem b = if b = a then v else memRead s.mem b := by
  simp [store]

/-- Everything `Push(v)` does (R100): the cell `SP` addressed holds `v`, `SP` is one lower, the rest is unchanged. -/
theorem push_eq : push v s = { s with sp := s.sp - 1#8, mem := memWrite s.mem s.sp v } := rfl

/-- What a read finds after `Push(v)` (R100). -/
theorem memRead_push (b : Byte) : memRead (push v s).mem b = if b = s.sp then v else memRead s.mem b := by
  simp [push, store]

/-- A pop writes no memory (R110). -/
theorem popReg_mem : (popReg r s).mem = s.mem := by cases r <;> rfl

/-- A pop into a register other than `SP` loads it from the cell above and moves `SP` there (R110). -/
theorem popReg_sp (h : r ≠ .sp) : (popReg r s).sp = s.sp + 1#8 := by cases r <;> first | rfl | exact absurd rfl h

/-- The register popped into (R110). -/
theorem readReg_popReg : readReg r (popReg r s) = memRead s.mem (s.sp + 1#8) := by cases r <;> rfl

/-- A jump writes `IP` and nothing else (R120). -/
theorem jumpIf_eq (c : Bool) : jumpIf c a s = { s with ip := if c then a - 1#8 else s.ip + 1#8 } := by
  cases c <;> rfl

/-- A taken jump lands on its target at Advance (R71). -/
theorem target_of_jump : a - 1#8 + 1#8 = a := BitVec.sub_add_cancel a 1#8

/-! ### Every operation keeps the canonical form of memory -/

theorem store_wf (h : Memory.wf s.mem = true) : Memory.wf (store a v s).mem = true := memWrite_wf _ _ _ h

theorem push_wf (h : Memory.wf s.mem = true) : Memory.wf (push v s).mem = true := memWrite_wf _ _ _ h

/-- The reset memory is in canonical form. -/
theorem reset_mem_wf : Memory.wf State.reset.mem = true := rfl

end Sys2Proof.Machine
end

