-- ==== Sys2Proof/Laws/PerInstr.lean ====
section
/-! SUPPORT. Facts about every instruction as syntax, one lemma per constructor. -/

namespace Sys2Proof.Laws.EncodeLength

/-- A well-formed instruction is as many bytes long as its opcode byte says (30_encoding.md R58). -/
def Statement (i : Instr) : Prop := i.wf = true → (encode i).length = opcodeLength ((encode i).headD 0x00#8)

/-- An opcode byte of 0x20 or more is one byte long (R58). -/
theorem length_of_high (op : Byte) (h : 0x20 ≤ op.toNat) : opcodeLength op = 1 := by
  have h1 : op ≠ 0x01#8 := by rintro rfl; simp at h
  have h5 : op ≠ 0x05#8 := by rintro rfl; simp at h
  have h2 : ¬ op.toNat ≤ 0x1E := by omega
  simp [opcodeLength, h1, h5, h2]

/-- The rows of unrecognised bytes other than 0x1F cover bytes from 0x20 on (R59). -/
theorem high_of_selected (op : Byte)
    (h : opcodeSelects 0xE0#8 0x20#8 op = true ∨ opcodeSelects 0xC0#8 0x40#8 op = true ∨
      opcodeSelects 0x80#8 0x80#8 op = true) : 0x20 ≤ op.toNat := by
  revert op; decide

theorem halt : Statement .halt := fun _ => rfl
theorem loadAX (imm8 : Byte) : Statement (.loadAX imm8) := fun _ => rfl
theorem loadAXBX : Statement .loadAXBX := fun _ => rfl
theorem loadAXSP : Statement .loadAXSP := fun _ => rfl
theorem loadAXBP : Statement .loadAXBP := fun _ => rfl
theorem loadBX (imm8 : Byte) : Statement (.loadBX imm8) := fun _ => rfl
theorem loadBXAX : Statement .loadBXAX := fun _ => rfl
theorem loadBXSP : Statement .loadBXSP := fun _ => rfl
theorem loadBXBP : Statement .loadBXBP := fun _ => rfl
theorem loadSPAX : Statement .loadSPAX := fun _ => rfl
theorem loadSPBX : Statement .loadSPBX := fun _ => rfl
theorem loadBPAX : Statement .loadBPAX := fun _ => rfl
theorem loadBPBX : Statement .loadBPBX := fun _ => rfl
theorem pushAX : Statement .pushAX := fun _ => rfl
theorem pushBX : Statement .pushBX := fun _ => rfl
theorem pushREG : Statement .pushREG := fun _ => rfl
theorem pushFLAG : Statement .pushFLAG := fun _ => rfl
theorem pushALL : Statement .pushALL := fun _ => rfl
theorem popAX : Statement .popAX := fun _ => rfl
theorem popBX : Statement .popBX := fun _ => rfl
theorem popREG : Statement .popREG := fun _ => rfl
theorem popFLAG : Statement .popFLAG := fun _ => rfl
theorem popALL : Statement .popALL := fun _ => rfl
theorem jumpADDR (addr8 : Byte) : Statement (.jumpADDR addr8) := fun _ => rfl
theorem jumpCRRY (addr8 : Byte) : Statement (.jumpCRRY addr8) := fun _ => rfl
theorem jumpEQU (addr8 : Byte) : Statement (.jumpEQU addr8) := fun _ => rfl
theorem jumpNEQU (addr8 : Byte) : Statement (.jumpNEQU addr8) := fun _ => rfl
theorem jumpGRTR (addr8 : Byte) : Statement (.jumpGRTR addr8) := fun _ => rfl
theorem jumpLESS (addr8 : Byte) : Statement (.jumpLESS addr8) := fun _ => rfl
theorem jumpGEQU (addr8 : Byte) : Statement (.jumpGEQU addr8) := fun _ => rfl
theorem jumpLEQU (addr8 : Byte) : Statement (.jumpLEQU addr8) := fun _ => rfl
theorem unrecognised1F : Statement .unrecognised1F := fun _ => rfl
theorem unrecognised20To3F (op : Byte) : Statement (.unrecognised20To3F op) := fun h => (length_of_high op (high_of_selected op (.inl h))).symm
theorem unrecognised40To7F (op : Byte) : Statement (.unrecognised40To7F op) := fun h => (length_of_high op (high_of_selected op (.inr (.inl h)))).symm
theorem unrecognised80ToFF (op : Byte) : Statement (.unrecognised80ToFF op) := fun h => (length_of_high op (high_of_selected op (.inr (.inr h)))).symm

end Sys2Proof.Laws.EncodeLength
end

