-- ==== Sys2Proof/Laws/Step.lean ====
section
/-! SUPPORT. What a step can do, said once, and the decoder's value at each opcode. -/

namespace Sys2Proof.Machine

/-- Everything a step that answers a next state can be: nothing, in a Halted state (R67), or the handler of the fetched
opcode followed by Advance (R66). -/
theorem step_next_cases {s t : State} (h : step s = .next t) :
    (halted s = true ∧ t = s) ∨
      (halted s = false ∧ ∃ u, exec (decodedInstr (fetch s)) (fetch s) = .next u ∧ t = advance u) := by
  unfold step tick at h
  split at h
  · next hs => exact .inl ⟨hs, by simpa using h.symm⟩
  · next hs =>
    refine .inr ⟨by simpa using hs, ?_⟩
    unfold executeAndAdvance at h
    split at h
    · next u hu => exact ⟨u, hu, by simpa using h.symm⟩
    · cases h
    · cases h

/-- What the fetched state is about to execute, in terms of the state before the fetch (R68, R69). -/
theorem decodedInstr_fetch (s : State) :
    decodedInstr (fetch s) = decodeInstr (memRead s.mem s.ip) (memRead s.mem (s.ip + 1#8)) := rfl

/-- Induction over opcode bytes: a property of the 31 defined opcodes and of all bytes from 0x1F on is a property of
every byte (R54, R56). -/
theorem opcode_cases {P : Byte → Prop} (defined : ∀ n < 0x1F, P (BitVec.ofNat 8 n))
    (unrecognised : ∀ b : Byte, 0x1F ≤ b.toNat → P b) (b : Byte) : P b := by
  by_cases hb : b.toNat < 0x1F
  · simpa using defined b.toNat hb
  · exact unrecognised b (by omega)

end Sys2Proof.Machine

namespace Sys2Proof

/-- From 0x1F on the opcode map has only unrecognised bytes (R56). -/
theorem decodeInstr_unrecognised (op operand : Byte) (h : 0x1F ≤ op.toNat) :
    decodeInstr op operand = decodeUnrecognised op := by
  unfold decodeInstr
  split <;> first | omega | rfl

/-- The four forms an unrecognised byte decodes to, each with the byte itself (R59). -/
theorem decodeUnrecognised_cases (op : Byte) :
    (decodeUnrecognised op = .unrecognised1F ∧ op = 0x1F#8) ∨ decodeUnrecognised op = .unrecognised20To3F op ∨
      decodeUnrecognised op = .unrecognised40To7F op ∨ decodeUnrecognised op = .unrecognised80ToFF op := by
  unfold decodeUnrecognised
  split
  · next h => exact .inl ⟨rfl, by simpa using h⟩
  · split
    · exact .inr (.inl rfl)
    · split
      · exact .inr (.inr (.inl rfl))
      · exact .inr (.inr (.inr rfl))

end Sys2Proof

namespace Sys2Proof.Machine

/-- Whichever row covers it, an unrecognised byte's handler is `Halt()` (R81). -/
theorem exec_decodeUnrecognised (op : Byte) (s : State) :
    exec (decodeUnrecognised op) s = .next (haltProcessor s) := by
  rcases decodeUnrecognised_cases op with ⟨h, -⟩ | h | h | h <;> rw [h] <;> rfl

end Sys2Proof.Machine
end

