-- ==== Sys2Proof/Tests/Slice0.lean ====
section
/-! SUPPORT. Tests of the model on small states: encodings written out from 30_encoding.md R54, one-tick vectors of
95_test_vectors.md (each theorem names its vector), the ill-formed terms, and for each obligation with hypotheses a
witness that meets them. -/

namespace Sys2Proof.Tests

open Sys2Proof Sys2Proof.Machine

/-- A Running or Halted state with these registers and cells, every other cell and `IR` zero. -/
def vec (ax bx sp bp ip flags : Byte) (cells : List (Byte × Byte)) : State :=
  { ax, bx, sp, bp, ip, ir := 0x00#8, flags, mem := cells.foldl (fun m c => memWrite m c.1 c.2) [] }

/-- The state after one tick. -/
def after (s : State) : State :=
  match step s with
  | .next t => t
  | .fault _ => s
  | .refused _ => s

/-- An image of `n` bytes. -/
def image (n : Nat) : List Byte := (List.range n).map (BitVec.ofNat 8)

theorem length_image (n : Nat) : (image n).length = n := by simp [image]

/-! ### Well-formedness: each check refuses an ill-formed term -/

theorem test_wf_20To3F : (Instr.unrecognised20To3F 0x1F#8).wf = false ∧ (Instr.unrecognised20To3F 0x40#8).wf = false := by
  decide

theorem test_wf_40To7F : (Instr.unrecognised40To7F 0x3F#8).wf = false ∧ (Instr.unrecognised40To7F 0x80#8).wf = false := by
  decide

theorem test_wf_80ToFF : (Instr.unrecognised80ToFF 0x7F#8).wf = false := by decide

/-! ### Decoding: every constructor's bytes, written out from R54's table -/


theorem test_decode_halt :
    decode [0b00000000#8] = .ok .halt [] := by decide

theorem test_decode_load :
    decode [0b00000001#8, 0xA5#8] = .ok (.loadAX 0xA5#8) [] ∧
    decode [0b00000010#8] = .ok .loadAXBX [] ∧
    decode [0b00000011#8] = .ok .loadAXSP [] ∧
    decode [0b00000100#8] = .ok .loadAXBP [] ∧
    decode [0b00000101#8, 0xA5#8] = .ok (.loadBX 0xA5#8) [] ∧
    decode [0b00000110#8] = .ok .loadBXAX [] ∧
    decode [0b00000111#8] = .ok .loadBXSP [] ∧
    decode [0b00001000#8] = .ok .loadBXBP [] ∧
    decode [0b00001001#8] = .ok .loadSPAX [] ∧
    decode [0b00001010#8] = .ok .loadSPBX [] ∧
    decode [0b00001011#8] = .ok .loadBPAX [] ∧
    decode [0b00001100#8] = .ok .loadBPBX [] := by decide

theorem test_decode_push :
    decode [0b00001101#8] = .ok .pushAX [] ∧
    decode [0b00001110#8] = .ok .pushBX [] ∧
    decode [0b00001111#8] = .ok .pushREG [] ∧
    decode [0b00010000#8] = .ok .pushFLAG [] ∧
    decode [0b00010001#8] = .ok .pushALL [] := by decide

theorem test_decode_pop :
    decode [0b00010010#8] = .ok .popAX [] ∧
    decode [0b00010011#8] = .ok .popBX [] ∧
    decode [0b00010100#8] = .ok .popREG [] ∧
    decode [0b00010101#8] = .ok .popFLAG [] ∧
    decode [0b00010110#8] = .ok .popALL [] := by decide

theorem test_decode_jump :
    decode [0b00010111#8, 0xA5#8] = .ok (.jumpADDR 0xA5#8) [] ∧
    decode [0b00011000#8, 0xA5#8] = .ok (.jumpCRRY 0xA5#8) [] ∧
    decode [0b00011001#8, 0xA5#8] = .ok (.jumpEQU 0xA5#8) [] ∧
    decode [0b00011010#8, 0xA5#8] = .ok (.jumpNEQU 0xA5#8) [] ∧
    decode [0b00011011#8, 0xA5#8] = .ok (.jumpGRTR 0xA5#8) [] ∧
    decode [0b00011100#8, 0xA5#8] = .ok (.jumpLESS 0xA5#8) [] ∧
    decode [0b00011101#8, 0xA5#8] = .ok (.jumpGEQU 0xA5#8) [] ∧
    decode [0b00011110#8, 0xA5#8] = .ok (.jumpLEQU 0xA5#8) [] := by decide

theorem test_decode_unrecognised :
    decode [0b00011111#8] = .ok .unrecognised1F [] ∧
    decode [0b00100000#8] = .ok (.unrecognised20To3F 0x20#8) [] ∧
    decode [0b00111111#8] = .ok (.unrecognised20To3F 0x3F#8) [] ∧
    decode [0b01000000#8] = .ok (.unrecognised40To7F 0x40#8) [] ∧
    decode [0b01111111#8] = .ok (.unrecognised40To7F 0x7F#8) [] ∧
    decode [0b10000000#8] = .ok (.unrecognised80ToFF 0x80#8) [] ∧
    decode [0b11111111#8] = .ok (.unrecognised80ToFF 0xFF#8) [] := by decide

/-- A list that ends too early is rejected by name. -/
theorem test_decode_rejects :
    decode [] = .error .noOpcode ∧ decode [0x01#8] = .error (.noOperand 0x01#8) ∧
    decode [0x1E#8] = .error (.noOperand 0x1E#8) := by decide

/-- Bits 7..0 of a table word are the opcode, bits 15..8 the operand; bits that are not given are zero. -/
theorem test_decodeTableWord :
    decodeTableWord 16 0xDF01 = some (.loadAX 0xDF#8) ∧ decodeTableWord 8 0xDF17 = some (.jumpADDR 0x00#8) ∧
    decodeTableWord 8 0x3F = some (.unrecognised20To3F 0x3F#8) := by decide

/-- A placed word is what the next step runs, from reset and from a Halted state. -/
theorem test_withFetchWord :
    (after (State.reset.withFetchWord 16 0xDF01)).ax = 0xDF#8 ∧
    (after ((vec 0#8 7#8 0#8 0#8 0xFF#8 0x11#8 []).withFetchWord 8 0x02)).ax = 0x07#8 := by decide

/-! ### One tick of each instruction -/

/-- V1, R80: only bit 0 changes; CARRY kept; IP not advanced. -/
theorem test_halt_keeps_carry :
    let t := after (vec 0x80#8 0x00#8 0x00#8 0x00#8 0x22#8 0x10#8 [(0x22#8, 0x00#8)])
    t.flags = 0x11#8 ∧ t.ip = 0x22#8 := by decide

/-- V3, R80: all reserved bits kept; FE becomes FF. -/
theorem test_halt_keeps_reserved_bits :
    let t := after (vec 0x00#8 0x00#8 0x40#8 0x00#8 0x05#8 0xFE#8 [])
    t.flags = 0xFF#8 ∧ t.ip = 0x05#8 := by decide

/-- V4, R81: lowest unrecognised value; IR keeps it. -/
theorem test_unrecognised_1F :
    let t := after (vec 0x00#8 0x00#8 0x00#8 0x00#8 0x00#8 0x00#8 [(0x00#8, 0x1F#8)])
    t.flags = 0x01#8 ∧ t.ip = 0x00#8 ∧ t.ir = 0x1F#8 := by decide

/-- V5, R81. -/
theorem test_unrecognised_20 :
    let t := after (vec 0x00#8 0x00#8 0x00#8 0x00#8 0x30#8 0x00#8 [(0x30#8, 0x20#8)])
    t.flags = 0x01#8 ∧ t.ip = 0x30#8 ∧ t.ir = 0x20#8 := by decide

/-- V6, R81. -/
theorem test_unrecognised_40 :
    let t := after (vec 0x00#8 0x00#8 0x00#8 0x00#8 0x30#8 0x00#8 [(0x30#8, 0x40#8)])
    t.flags = 0x01#8 ∧ t.ip = 0x30#8 ∧ t.ir = 0x40#8 := by decide

/-- V7, R81: CARRY kept. -/
theorem test_unrecognised_80_keeps_carry :
    let t := after (vec 0x00#8 0x00#8 0x00#8 0x00#8 0x30#8 0x10#8 [(0x30#8, 0x80#8)])
    t.flags = 0x11#8 ∧ t.ip = 0x30#8 ∧ t.ir = 0x80#8 := by decide

/-- V8, R81: highest value; the following byte is not read. -/
theorem test_unrecognised_FF_reads_no_operand :
    let t := after (vec 0x01#8 0x02#8 0x03#8 0x04#8 0x40#8 0x00#8 [(0x40#8, 0xFF#8), (0x41#8, 0x99#8)])
    t.flags = 0x01#8 ∧ t.ip = 0x40#8 ∧ t.ir = 0xFF#8 := by decide

/-- V9, R67: Halted: no access, nothing changes, even though cell 10 holds LOAD_AX. -/
theorem test_halted_tick_runs_no_load :
    let t := after (vec 0x09#8 0x00#8 0x00#8 0x00#8 0x10#8 0x01#8 [(0x10#8, 0x01#8), (0x11#8, 0x55#8)])
    t.ip = 0x10#8 := by decide

/-- V10, R67: Halted by POP_FLAG: the pop is not executed again. -/
theorem test_halted_tick_pops_nothing :
    let t := after (vec 0x00#8 0x00#8 0xFE#8 0x00#8 0x06#8 0x01#8 [(0x06#8, 0x15#8), (0xFF#8, 0x00#8)])
    t.ip = 0x06#8 := by decide

/-- V11, R86. -/
theorem test_loadAX :
    let t := after (vec 0x11#8 0x22#8 0x33#8 0x44#8 0x10#8 0x10#8 [(0x10#8, 0x01#8), (0x11#8, 0xDF#8)])
    t.ax = 0xDF#8 ∧ t.ip = 0x12#8 ∧ t.flags = 0x10#8 := by decide

/-- V25, R86: opcode at FF, operand read from 00; IP ends at 01. -/
theorem test_loadAX_operand_wraps :
    let t := after (vec 0x00#8 0x00#8 0x00#8 0x00#8 0xFF#8 0x00#8 [(0x00#8, 0x17#8), (0xFF#8, 0x01#8)])
    t.ax = 0x17#8 ∧ t.ip = 0x01#8 := by decide

/-- V12, R87. -/
theorem test_loadAXBX :
    let t := after (vec 0x11#8 0x22#8 0x33#8 0x44#8 0x10#8 0x10#8 [(0x10#8, 0x02#8)])
    t.ax = 0x22#8 ∧ t.ip = 0x11#8 := by decide

/-- V13, R88. -/
theorem test_loadAXSP :
    let t := after (vec 0x11#8 0x22#8 0x33#8 0x44#8 0x10#8 0x10#8 [(0x10#8, 0x03#8)])
    t.ax = 0x33#8 ∧ t.ip = 0x11#8 := by decide

/-- V14, R89. -/
theorem test_loadAXBP :
    let t := after (vec 0x11#8 0x22#8 0x33#8 0x44#8 0x10#8 0x10#8 [(0x10#8, 0x04#8)])
    t.ax = 0x44#8 ∧ t.ip = 0x11#8 := by decide

/-- V15, R90. -/
theorem test_loadBX :
    let t := after (vec 0x11#8 0x22#8 0x33#8 0x44#8 0x10#8 0x10#8 [(0x10#8, 0x05#8), (0x11#8, 0xFF#8)])
    t.bx = 0xFF#8 ∧ t.ip = 0x12#8 := by decide

/-- V26, R90: opcode at FF, operand read from 00. -/
theorem test_loadBX_operand_wraps :
    let t := after (vec 0x00#8 0x00#8 0x00#8 0x00#8 0xFF#8 0x00#8 [(0x00#8, 0xC3#8), (0xFF#8, 0x05#8)])
    t.bx = 0xC3#8 ∧ t.ip = 0x01#8 := by decide

/-- V16, R91. -/
theorem test_loadBXAX :
    let t := after (vec 0x11#8 0x22#8 0x33#8 0x44#8 0x10#8 0x10#8 [(0x10#8, 0x06#8)])
    t.bx = 0x11#8 ∧ t.ip = 0x11#8 := by decide

/-- V17, R92. -/
theorem test_loadBXSP :
    let t := after (vec 0x11#8 0x22#8 0x33#8 0x44#8 0x10#8 0x10#8 [(0x10#8, 0x07#8)])
    t.bx = 0x33#8 ∧ t.ip = 0x11#8 := by decide

/-- V18, R93. -/
theorem test_loadBXBP :
    let t := after (vec 0x11#8 0x22#8 0x33#8 0x44#8 0x10#8 0x10#8 [(0x10#8, 0x08#8)])
    t.bx = 0x44#8 ∧ t.ip = 0x11#8 := by decide

/-- V19, R94. -/
theorem test_loadSPAX :
    let t := after (vec 0x11#8 0x22#8 0x33#8 0x44#8 0x10#8 0x10#8 [(0x10#8, 0x09#8)])
    t.sp = 0x11#8 ∧ t.ip = 0x11#8 := by decide

/-- V20, R95. -/
theorem test_loadSPBX :
    let t := after (vec 0x11#8 0x22#8 0x33#8 0x44#8 0x10#8 0x10#8 [(0x10#8, 0x0A#8)])
    t.sp = 0x22#8 ∧ t.ip = 0x11#8 := by decide

/-- V21, R96. -/
theorem test_loadBPAX :
    let t := after (vec 0x11#8 0x22#8 0x33#8 0x44#8 0x10#8 0x10#8 [(0x10#8, 0x0B#8)])
    t.bp = 0x11#8 ∧ t.ip = 0x11#8 := by decide

/-- V22, R97. -/
theorem test_loadBPBX :
    let t := after (vec 0x11#8 0x22#8 0x33#8 0x44#8 0x10#8 0x10#8 [(0x10#8, 0x0C#8)])
    t.bp = 0x22#8 ∧ t.ip = 0x11#8 := by decide

/-- V29, R101. -/
theorem test_pushAX :
    let t := after (vec 0xA1#8 0xB2#8 0x80#8 0x44#8 0x10#8 0x10#8 [(0x10#8, 0x0D#8)])
    t.sp = 0x7F#8 ∧ t.ip = 0x11#8 ∧ memRead t.mem 0x80#8 = 0xA1#8 := by decide

/-- V34, R101: SP = 00: writes cell 00, SP wraps to FF. -/
theorem test_pushAX_wraps :
    let t := after (vec 0x77#8 0x00#8 0x00#8 0x00#8 0x10#8 0x00#8 [(0x00#8, 0x05#8), (0x10#8, 0x0D#8)])
    t.sp = 0xFF#8 ∧ t.ip = 0x11#8 ∧ memRead t.mem 0x00#8 = 0x77#8 := by decide

/-- V30, R102. -/
theorem test_pushBX :
    let t := after (vec 0xA1#8 0xB2#8 0x80#8 0x44#8 0x10#8 0x10#8 [(0x10#8, 0x0E#8)])
    t.sp = 0x7F#8 ∧ t.ip = 0x11#8 ∧ memRead t.mem 0x80#8 = 0xB2#8 := by decide

/-- V31, R103: AX at the higher address. -/
theorem test_pushREG :
    let t := after (vec 0xA1#8 0xB2#8 0x80#8 0x44#8 0x10#8 0x10#8 [(0x10#8, 0x0F#8)])
    t.sp = 0x7E#8 ∧ t.ip = 0x11#8 ∧ memRead t.mem 0x80#8 = 0xA1#8 ∧ memRead t.mem 0x7F#8 = 0xB2#8 := by decide

/-- V36, R103: wraps: AX to 00, BX to FF, SP = FE. -/
theorem test_pushREG_wraps :
    let t := after (vec 0xA1#8 0xB2#8 0x00#8 0x00#8 0x10#8 0x00#8 [(0x10#8, 0x0F#8)])
    t.sp = 0xFE#8 ∧ t.ip = 0x11#8 ∧ memRead t.mem 0x00#8 = 0xA1#8 ∧ memRead t.mem 0xFF#8 = 0xB2#8 := by decide

/-- V32, R104. -/
theorem test_pushFLAG :
    let t := after (vec 0xA1#8 0xB2#8 0x80#8 0x44#8 0x10#8 0x10#8 [(0x10#8, 0x10#8)])
    t.sp = 0x7F#8 ∧ t.ip = 0x11#8 ∧ memRead t.mem 0x80#8 = 0x10#8 := by decide

/-- V39, R104: reserved bits stored; bit 0 is 0 because Running. -/
theorem test_pushFLAG_stores_reserved_bits :
    let t := after (vec 0x00#8 0x00#8 0x80#8 0x00#8 0x10#8 0xFE#8 [(0x10#8, 0x10#8)])
    t.sp = 0x7F#8 ∧ t.ip = 0x11#8 ∧ memRead t.mem 0x80#8 = 0xFE#8 := by decide

/-- V33, R105: AX, BX, FLAGS at 80, 7F, 7E. -/
theorem test_pushALL :
    let t := after (vec 0xA1#8 0xB2#8 0x80#8 0x44#8 0x10#8 0x10#8 [(0x10#8, 0x11#8)])
    t.sp = 0x7D#8 ∧ t.ip = 0x11#8 ∧ memRead t.mem 0x80#8 = 0xA1#8 ∧ memRead t.mem 0x7F#8 = 0xB2#8 ∧ memRead t.mem 0x7E#8 = 0x10#8 := by decide

/-- V38, R105: wraps: 01, 00, FF; all 8 FLAGS bits stored. -/
theorem test_pushALL_wraps :
    let t := after (vec 0xA1#8 0xB2#8 0x01#8 0x00#8 0x10#8 0xFE#8 [(0x10#8, 0x11#8)])
    t.sp = 0xFE#8 ∧ t.ip = 0x11#8 ∧ memRead t.mem 0x01#8 = 0xA1#8 ∧ memRead t.mem 0x00#8 = 0xB2#8 ∧ memRead t.mem 0xFF#8 = 0xFE#8 := by decide

/-- V42, R111: cell 80 is read and not cleared. -/
theorem test_popAX :
    let t := after (vec 0x00#8 0x00#8 0x7F#8 0x00#8 0x10#8 0x10#8 [(0x10#8, 0x12#8), (0x80#8, 0xA1#8)])
    t.ax = 0xA1#8 ∧ t.sp = 0x80#8 ∧ t.ip = 0x11#8 := by decide

/-- V47, R111: SP = FF: wraps to 00 and reads cell 00. -/
theorem test_popAX_wraps :
    let t := after (vec 0x00#8 0x00#8 0xFF#8 0x00#8 0x10#8 0x00#8 [(0x00#8, 0x05#8), (0x10#8, 0x12#8)])
    t.ax = 0x05#8 ∧ t.sp = 0x00#8 ∧ t.ip = 0x11#8 := by decide

/-- V55, R112: pops its own opcode byte: BX = 13. -/
theorem test_popBX_pops_its_own_opcode :
    let t := after (vec 0x00#8 0x55#8 0x0F#8 0x00#8 0x10#8 0x00#8 [(0x10#8, 0x13#8)])
    t.bx = 0x13#8 ∧ t.sp = 0x10#8 ∧ t.ip = 0x11#8 := by decide

/-- V44, R113: BX from the lower cell, AX from the higher. -/
theorem test_popREG :
    let t := after (vec 0x00#8 0x00#8 0x7E#8 0x00#8 0x10#8 0x00#8 [(0x10#8, 0x14#8), (0x7F#8, 0xB2#8), (0x80#8, 0xA1#8)])
    t.ax = 0xA1#8 ∧ t.bx = 0xB2#8 ∧ t.sp = 0x80#8 ∧ t.ip = 0x11#8 := by decide

/-- V49, R113: wraps: BX from FF, AX from 00, SP = 00. -/
theorem test_popREG_wraps :
    let t := after (vec 0x00#8 0x00#8 0xFE#8 0x00#8 0x10#8 0x00#8 [(0x00#8, 0xA1#8), (0x10#8, 0x14#8), (0xFF#8, 0xB2#8)])
    t.ax = 0xA1#8 ∧ t.bx = 0xB2#8 ∧ t.sp = 0x00#8 ∧ t.ip = 0x11#8 := by decide

/-- V45, R114: sets CARRY; still Running, IP advances. -/
theorem test_popFLAG :
    let t := after (vec 0x00#8 0x00#8 0x7F#8 0x00#8 0x10#8 0x00#8 [(0x10#8, 0x15#8), (0x80#8, 0x10#8)])
    t.sp = 0x80#8 ∧ t.ip = 0x11#8 ∧ t.flags = 0x10#8 := by decide

/-- V52, R114, R117: bit 0 set: Halted, IP stays 10. -/
theorem test_popFLAG_halts :
    let t := after (vec 0x00#8 0x00#8 0x7F#8 0x00#8 0x10#8 0x00#8 [(0x10#8, 0x15#8), (0x80#8, 0x01#8)])
    t.sp = 0x80#8 ∧ t.flags = 0x01#8 ∧ t.ip = 0x10#8 := by decide

/-- V46, R115: FLAGS, BX, AX from 7E, 7F, 80; CARRY cleared by the load. -/
theorem test_popALL :
    let t := after (vec 0x00#8 0x00#8 0x7D#8 0x00#8 0x10#8 0x10#8 [(0x10#8, 0x16#8), (0x7E#8, 0x00#8), (0x7F#8, 0xB2#8), (0x80#8, 0xA1#8)])
    t.ax = 0xA1#8 ∧ t.bx = 0xB2#8 ∧ t.sp = 0x80#8 ∧ t.ip = 0x11#8 ∧ t.flags = 0x00#8 := by decide

/-- V54, R115, R117: FLAGS byte odd: all three pops still done, then Halted, IP stays 10. -/
theorem test_popALL_halts :
    let t := after (vec 0x00#8 0x00#8 0x7D#8 0x00#8 0x10#8 0x00#8 [(0x10#8, 0x16#8), (0x7E#8, 0x13#8), (0x7F#8, 0xB2#8), (0x80#8, 0xA1#8)])
    t.ax = 0xA1#8 ∧ t.bx = 0xB2#8 ∧ t.sp = 0x80#8 ∧ t.flags = 0x13#8 ∧ t.ip = 0x10#8 := by decide

/-- V84, R121: target 00: handler stores FF, Advance wraps to 00. -/
theorem test_jumpADDR_to_zero :
    let t := after (vec 0x00#8 0x00#8 0x00#8 0x00#8 0x03#8 0x00#8 [(0x03#8, 0x17#8), (0x04#8, 0x00#8)])
    t.ip = 0x00#8 := by decide

/-- V87, R121: opcode at FF, target read from cell 00. -/
theorem test_jumpADDR_operand_wraps :
    let t := after (vec 0x00#8 0x00#8 0x00#8 0x00#8 0xFF#8 0x00#8 [(0x00#8, 0x33#8), (0xFF#8, 0x17#8)])
    t.ip = 0x33#8 := by decide

/-- V92, R122: CARRY set among others: taken; FLAGS unchanged. -/
theorem test_jumpCRRY_taken :
    let t := after (vec 0x00#8 0x00#8 0x00#8 0x00#8 0x07#8 0xFE#8 [(0x07#8, 0x18#8), (0x08#8, 0x0B#8)])
    t.ip = 0x0B#8 ∧ t.flags = 0xFE#8 := by decide

/-- V91, R122: every bit but CARRY and HALT set: not taken. -/
theorem test_jumpCRRY_not_taken :
    let t := after (vec 0x00#8 0x00#8 0x00#8 0x00#8 0x07#8 0xEE#8 [(0x07#8, 0x18#8), (0x08#8, 0x0B#8)])
    t.ip = 0x09#8 := by decide

/-- V96, R123: taken at FF: target read from cell 00. -/
theorem test_jumpEQU_taken_at_FF :
    let t := after (vec 0x02#8 0x02#8 0x00#8 0x00#8 0xFF#8 0x00#8 [(0x00#8, 0x40#8), (0xFF#8, 0x19#8)])
    t.ip = 0x40#8 := by decide

/-- V94, R123: not taken at FE: IP = FE + 2 wraps to 00. -/
theorem test_jumpEQU_not_taken_at_FE :
    let t := after (vec 0x01#8 0x02#8 0x00#8 0x00#8 0xFE#8 0x00#8 [(0xFE#8, 0x19#8), (0xFF#8, 0x40#8)])
    t.ip = 0x00#8 := by decide

/-- V59, R124: AX < BX. -/
theorem test_jumpNEQU_less :
    let t := after (vec 0x05#8 0x0A#8 0x00#8 0x00#8 0x10#8 0x00#8 [(0x10#8, 0x1A#8), (0x11#8, 0x40#8)])
    t.ip = 0x40#8 := by decide

/-- V60, R124: AX == BX. -/
theorem test_jumpNEQU_equal :
    let t := after (vec 0x07#8 0x07#8 0x00#8 0x00#8 0x10#8 0x00#8 [(0x10#8, 0x1A#8), (0x11#8, 0x40#8)])
    t.ip = 0x12#8 := by decide

/-- V74, R125: unsigned: 80 > 7F is true. -/
theorem test_jumpGRTR_unsigned :
    let t := after (vec 0x80#8 0x7F#8 0x00#8 0x00#8 0x10#8 0x00#8 [(0x10#8, 0x1B#8), (0x11#8, 0x40#8)])
    t.ip = 0x40#8 := by decide

/-- V63, R125: AX == BX. -/
theorem test_jumpGRTR_equal :
    let t := after (vec 0x07#8 0x07#8 0x00#8 0x00#8 0x10#8 0x00#8 [(0x10#8, 0x1B#8), (0x11#8, 0x40#8)])
    t.ip = 0x12#8 := by decide

/-- V76, R126: unsigned: 7F < 80. -/
theorem test_jumpLESS_unsigned :
    let t := after (vec 0x7F#8 0x80#8 0x00#8 0x00#8 0x10#8 0x00#8 [(0x10#8, 0x1C#8), (0x11#8, 0x40#8)])
    t.ip = 0x40#8 := by decide

/-- V78, R126: FF < 00 is false. -/
theorem test_jumpLESS_not_signed :
    let t := after (vec 0xFF#8 0x00#8 0x00#8 0x00#8 0x10#8 0x00#8 [(0x10#8, 0x1C#8), (0x11#8, 0x40#8)])
    t.ip = 0x12#8 := by decide

/-- V81, R127: equal at the top value. -/
theorem test_jumpGEQU_equal :
    let t := after (vec 0xFF#8 0xFF#8 0x00#8 0x00#8 0x10#8 0x00#8 [(0x10#8, 0x1D#8), (0x11#8, 0x40#8)])
    t.ip = 0x40#8 := by decide

/-- V80, R127: 00 >= FF is false. -/
theorem test_jumpGEQU_less :
    let t := after (vec 0x00#8 0xFF#8 0x00#8 0x00#8 0x10#8 0x00#8 [(0x10#8, 0x1D#8), (0x11#8, 0x40#8)])
    t.ip = 0x12#8 := by decide

/-- V72, R128: AX == BX. -/
theorem test_jumpLEQU_equal :
    let t := after (vec 0x07#8 0x07#8 0x00#8 0x00#8 0x10#8 0x00#8 [(0x10#8, 0x1E#8), (0x11#8, 0x40#8)])
    t.ip = 0x40#8 := by decide

/-- V73, R128: AX > BX. -/
theorem test_jumpLEQU_greater :
    let t := after (vec 0x0A#8 0x05#8 0x00#8 0x00#8 0x10#8 0x00#8 [(0x10#8, 0x1E#8), (0x11#8, 0x40#8)])
    t.ip = 0x12#8 := by decide

/-! ### Accesses -/

/-- V38, R105: the stores of PUSH_ALL in order, wrapping through address 0. -/
theorem test_accesses_pushALL :
    tickAccesses (vec 0xA1#8 0xB2#8 0x01#8 0x00#8 0x10#8 0xFE#8 [(0x10#8, 0x11#8)]) =
      [.read 0x10#8 0x11#8, .write 0x01#8 0xA1#8, .write 0x00#8 0xB2#8, .write 0xFF#8 0xFE#8] := by decide

/-- V95, R123: a jump not taken reads only its opcode. -/
theorem test_accesses_jump_not_taken :
    tickAccesses (vec 0x01#8 0x02#8 0x00#8 0x00#8 0xFF#8 0x00#8 [(0x00#8, 0x40#8), (0xFF#8, 0x19#8)]) =
      [.read 0xFF#8 0x19#8] := by decide

/-! ### Host -/

/-- R76, D13: an image of 256 bytes is loaded, one of 257 is refused. -/
theorem test_loadImage_bound :
    (loadImage (image 256) State.reset).isSome = true ∧
    loadImage (image 257) State.reset = none := by
  constructor <;> simp [loadImage, length_image, Config.memorySize]

/-- Log entry 10: two requests that would both act, with no order in the spec, are refused. -/
theorem test_pins_two_requests :
    pinCycle ⟨true, false, 0x00#8, 0x00#8, true, 0x00#8⟩ Session.start = none ∧
    pinCycle ⟨false, true, 0x00#8, 0x00#8, true, 0x00#8⟩ Session.start = none := by decide

/-- R79: after the first tick `load_en` is ignored and `tick` runs one tick (here LOAD_AXBX), none when Halted. -/
theorem test_pins_load_ignored :
    pinCycle ⟨false, true, 0x10#8, 0xFF#8, true, 0x00#8⟩
        ⟨vec 0x05#8 0x0A#8 0x80#8 0x44#8 0x10#8 0x10#8 [(0x10#8, 0x02#8)], true⟩ =
      some ⟨{ vec 0x0A#8 0x0A#8 0x80#8 0x44#8 0x11#8 0x10#8 [(0x10#8, 0x02#8)] with ir := 0x02#8 }, true⟩ ∧
    pinCycle ⟨false, true, 0x10#8, 0xFF#8, true, 0x00#8⟩ ⟨vec 0x05#8 0x0A#8 0x80#8 0x44#8 0x10#8 0x11#8 [], true⟩ =
      some ⟨vec 0x05#8 0x0A#8 0x80#8 0x44#8 0x10#8 0x11#8 [], true⟩ := by decide

/-- R79, R75: `reset` beside a tick ignored while `ready` is low and a load ignored after the first tick is Reset. -/
theorem test_pins_reset_alone_acts :
    pinCycle ⟨true, true, 0x10#8, 0xFF#8, true, 0x00#8⟩ ⟨vec 0x05#8 0x0A#8 0x80#8 0x44#8 0x10#8 0x11#8 [], true⟩ =
      some Session.start ∧
    pinCycle ⟨true, false, 0x10#8, 0xFF#8, true, 0x00#8⟩ ⟨vec 0x05#8 0x0A#8 0x80#8 0x44#8 0x10#8 0x11#8 [], false⟩ =
      some Session.start ∧
    pinCycle ⟨true, true, 0x10#8, 0xFF#8, false, 0x00#8⟩ ⟨vec 0x05#8 0x0A#8 0x80#8 0x44#8 0x10#8 0x10#8 [], true⟩ =
      some Session.start := by decide

/-! ### Witnesses: a concrete state and operands that meet the hypotheses of each statement, clause by clause -/

/-- A Running state with `op` and `arg` at `IP` = 0x10 and the bytes `low`, 0x22, 0x33 above `SP` = 0x80. -/
def sample (op arg low : Byte) : State :=
  vec 0x05#8 0x0A#8 0x80#8 0x44#8 0x10#8 0x10#8
    [(0x10#8, op), (0x11#8, arg), (0x81#8, low), (0x82#8, 0x22#8), (0x83#8, 0x33#8)]

/-- A Halted state: `sample` after a HALT. -/
def sampleHalted : State := after (sample 0x00#8 0x00#8 0x00#8)

/-- Every opcode byte is the next opcode of a Running state: all clauses of the tick statements that fix the opcode. -/
theorem witness_every_opcode :
    ∀ op : Byte, ready (sample op 0x40#8 0x10#8) = true ∧ nextOpcode (sample op 0x40#8 0x10#8) = op := by
  intro op
  simp [sample, vec, ready, halted, haltFlag, flagBit, Config.haltBit, nextOpcode]

theorem witness_DecodeOfEncode :
    (Instr.unrecognised20To3F 0x20#8).wf = true ∧ (Instr.unrecognised20To3F 0x3F#8).wf = true ∧
    (Instr.unrecognised40To7F 0x40#8).wf = true ∧ (Instr.unrecognised40To7F 0x7F#8).wf = true ∧
    (Instr.unrecognised80ToFF 0x80#8).wf = true ∧ (Instr.unrecognised80ToFF 0xFF#8).wf = true ∧
    (Instr.jumpLEQU 0xFF#8).wf = true := by decide

theorem witness_EncodeOfDecode :
    decode [0x1E#8, 0xFF#8, 0x01#8] = .ok (.jumpLEQU 0xFF#8) [0x01#8] ∧
    decode [0xFF#8, 0x01#8] = .ok (.unrecognised80ToFF 0xFF#8) [0x01#8] := by decide

theorem witness_DecoderAgreesWithTable :
    OpcodeRow.mk 0x1E#8 0xFF#8 2 ∈ selectedRows 0x1E#8 ∧ OpcodeRow.mk 0x1F#8 0xFF#8 1 ∈ selectedRows 0x1F#8 ∧
    OpcodeRow.mk 0x80#8 0x80#8 1 ∈ selectedRows 0xFF#8 := by decide

theorem witness_MemoriesThatReadAlikeAreEqual :
    Memory.wf [(0, 0x07#8), (255, 0x01#8)] = true ∧
    Memory.wf (memWrite (memWrite [] 0xFF#8 0x01#8) 0x00#8 0x07#8) = true ∧
    ∀ a : Byte, memRead [(0, 0x07#8), (255, 0x01#8)] a =
      memRead (memWrite (memWrite [] 0xFF#8 0x01#8) 0x00#8 0x07#8) a := ⟨by decide, by decide, fun _ => rfl⟩

theorem witness_EmptyImageHaltsAtOnce : loadImage [] State.reset = some State.reset := by decide

theorem witness_LoadImageFillsFromZero :
    (image 256).length ≤ 256 ∧ 256 < (image 257).length := by simp [length_image]

theorem witness_HaltedTickChangesNothing : halted sampleHalted = true := by decide

theorem witness_HaltedForGood : halted sampleHalted = true := by decide

theorem witness_TickRunsDecodedInstruction : ready (sample 0x11#8 0x00#8 0x00#8) = true := by decide

theorem witness_HaltTick : ready (sample 0x00#8 0x40#8 0x10#8) = true ∧ nextOpcode (sample 0x00#8 0x40#8 0x10#8) = 0x00#8 :=
  witness_every_opcode _

theorem witness_UnrecognisedTick :
    (ready (sample 0x1F#8 0x40#8 0x10#8) = true ∧ 0x1F ≤ (nextOpcode (sample 0x1F#8 0x40#8 0x10#8)).toNat) ∧
    ready (sample 0xFF#8 0x40#8 0x10#8) = true ∧ 0x1F ≤ (nextOpcode (sample 0xFF#8 0x40#8 0x10#8)).toNat := by decide

/-- The clauses of LoadImmediateTick, one opcode each. -/
theorem witness_LoadImmediateTick : ∀ op ∈ [0x01#8, 0x05#8],
    ready (sample op 0x40#8 0x10#8) = true ∧ nextOpcode (sample op 0x40#8 0x10#8) = op :=
  fun op _ => witness_every_opcode op

/-- The clauses of CopyToAXTick. -/
theorem witness_CopyToAXTick : ∀ op ∈ [0x02#8, 0x03#8, 0x04#8],
    ready (sample op 0x40#8 0x10#8) = true ∧ nextOpcode (sample op 0x40#8 0x10#8) = op :=
  fun op _ => witness_every_opcode op

/-- The clauses of CopyToBXTick. -/
theorem witness_CopyToBXTick : ∀ op ∈ [0x06#8, 0x07#8, 0x08#8],
    ready (sample op 0x40#8 0x10#8) = true ∧ nextOpcode (sample op 0x40#8 0x10#8) = op :=
  fun op _ => witness_every_opcode op

/-- The clauses of CopyToPointerTick. -/
theorem witness_CopyToPointerTick : ∀ op ∈ [0x09#8, 0x0A#8, 0x0B#8, 0x0C#8],
    ready (sample op 0x40#8 0x10#8) = true ∧ nextOpcode (sample op 0x40#8 0x10#8) = op :=
  fun op _ => witness_every_opcode op

/-- The clauses of PushOneTick. -/
theorem witness_PushOneTick : ∀ op ∈ [0x0D#8, 0x0E#8, 0x10#8],
    ready (sample op 0x40#8 0x10#8) = true ∧ nextOpcode (sample op 0x40#8 0x10#8) = op :=
  fun op _ => witness_every_opcode op

/-- The clauses of PushManyTick, and for its frame an address outside the stored cells. -/
theorem witness_PushManyTick : (∀ op ∈ [0x0F#8, 0x11#8],
    ready (sample op 0x40#8 0x10#8) = true ∧ nextOpcode (sample op 0x40#8 0x10#8) = op) ∧
    (0x81#8 ≠ 0x80#8 ∧ 0x81#8 ≠ 0x80#8 - 1#8 ∧ 0x81#8 ≠ 0x80#8 - 2#8) :=
  ⟨fun op _ => witness_every_opcode op, by decide⟩

/-- The clauses of PopRegisterTick. -/
theorem witness_PopRegisterTick : ∀ op ∈ [0x12#8, 0x13#8, 0x14#8],
    ready (sample op 0x40#8 0x10#8) = true ∧ nextOpcode (sample op 0x40#8 0x10#8) = op :=
  fun op _ => witness_every_opcode op

/-- The clauses of PopFlagsTick. -/
theorem witness_PopFlagsTick : ∀ op ∈ [0x15#8, 0x16#8],
    ready (sample op 0x40#8 0x10#8) = true ∧ nextOpcode (sample op 0x40#8 0x10#8) = op :=
  fun op _ => witness_every_opcode op

theorem witness_FlagsPopHalts : ∀ op ∈ [0x15#8, 0x16#8],
    ready (sample op 0x00#8 0x13#8) = true ∧ nextOpcode (sample op 0x00#8 0x13#8) = op ∧
    (memRead (sample op 0x00#8 0x13#8).mem ((sample op 0x00#8 0x13#8).sp + 1#8)).getLsbD 0 = true := by decide

theorem witness_JumpAlwaysTick :
    ready (sample 0x17#8 0x40#8 0x10#8) = true ∧ nextOpcode (sample 0x17#8 0x40#8 0x10#8) = 0x17#8 :=
  witness_every_opcode _

theorem witness_JumpOnCarryTick :
    ready (sample 0x18#8 0x40#8 0x10#8) = true ∧ nextOpcode (sample 0x18#8 0x40#8 0x10#8) = 0x18#8 :=
  witness_every_opcode _

/-- The clauses of JumpOnComparisonTick. -/
theorem witness_JumpOnComparisonTick : ∀ op ∈ [0x19#8, 0x1A#8, 0x1B#8, 0x1C#8, 0x1D#8, 0x1E#8],
    ready (sample op 0x40#8 0x10#8) = true ∧ nextOpcode (sample op 0x40#8 0x10#8) = op :=
  fun op _ => witness_every_opcode op

/-- The classes of NetEffectOnIP: a tick that halts, a one-byte one that does not, an immediate load, the first and the
last jump. -/
theorem witness_NetEffectOnIP :
    (∀ op ∈ [0x00#8, 0x01#8, 0x05#8, 0x11#8, 0x17#8, 0x1E#8],
      step (sample op 0x40#8 0x10#8) = .next (after (sample op 0x40#8 0x10#8))) ∧
    ready (after (sample 0x00#8 0x40#8 0x10#8)) = false ∧
    ready (after (sample 0x11#8 0x40#8 0x10#8)) = true ∧ opcodeLength 0x11#8 = 1 := by
  refine ⟨fun op h => ?_, by decide, by decide, by decide⟩
  fin_cases h <;> rfl

/-- OnlyListedInstructionsWrite: ticks that change AX, BX, SP, BP, FLAGS and a cell. -/
theorem witness_OnlyListedInstructionsWrite :
    (∀ op ∈ [0x01#8, 0x06#8, 0x09#8, 0x0B#8, 0x00#8, 0x0D#8],
      step (sample op 0x40#8 0x10#8) = .next (after (sample op 0x40#8 0x10#8))) ∧
    (after (sample 0x01#8 0x40#8 0x10#8)).ax ≠ 0x05#8 ∧ (after (sample 0x06#8 0x40#8 0x10#8)).bx ≠ 0x0A#8 ∧
    (after (sample 0x09#8 0x40#8 0x10#8)).sp ≠ 0x80#8 ∧ (after (sample 0x0B#8 0x40#8 0x10#8)).bp ≠ 0x44#8 ∧
    (after (sample 0x00#8 0x40#8 0x10#8)).flags ≠ 0x10#8 ∧
    memRead (after (sample 0x0D#8 0x40#8 0x10#8)).mem 0x80#8 ≠ memRead (sample 0x0D#8 0x40#8 0x10#8).mem 0x80#8 := by
  refine ⟨fun op h => ?_, by decide, by decide, by decide, by decide, by decide, by decide⟩
  fin_cases h <;> rfl

theorem witness_OnlyFlagsPopsChangeOtherBits :
    step (sample 0x15#8 0x00#8 0xEE#8) = .next (after (sample 0x15#8 0x00#8 0xEE#8)) ∧
    (after (sample 0x15#8 0x00#8 0xEE#8)).flags.getLsbD 4 ≠ (sample 0x15#8 0x00#8 0xEE#8).flags.getLsbD 4 ∧
    (after (sample 0x15#8 0x00#8 0xEE#8)).flags.getLsbD 7 ≠ (sample 0x15#8 0x00#8 0xEE#8).flags.getLsbD 7 :=
  ⟨rfl, by decide, by decide⟩

theorem witness_OldIRMakesNoDifference : ready (sample 0x15#8 0x00#8 0x00#8) = true := by decide

theorem witness_BPHasNoFunction :
    ready (sample 0x11#8 0x00#8 0x00#8) = true ∧
    (nextOpcode (sample 0x11#8 0x00#8 0x00#8)).toNat ∉ [0x04, 0x08, 0x0B, 0x0C] ∧
    step (sample 0x11#8 0x00#8 0x00#8) = .next (after (sample 0x11#8 0x00#8 0x00#8)) := ⟨by decide, by decide, rfl⟩

/-- One instruction that pushes no FLAGS and the two that do. -/
theorem witness_ReservedFlagsAffectNothing : ∀ op ∈ [0x18#8, 0x10#8, 0x11#8],
    ready (sample op 0x40#8 0x00#8) = true ∧ (0xFE#8).getLsbD 0 = false ∧
    (0xFE#8).getLsbD 4 = (sample op 0x40#8 0x00#8).flags.getLsbD 4 ∧
    nextOpcode (sample op 0x40#8 0x00#8) = op ∧
    step (sample op 0x40#8 0x00#8) = .next (after (sample op 0x40#8 0x00#8)) := by
  intro op hop
  fin_cases hop <;> exact ⟨by decide, by decide, by decide, by decide, rfl⟩

/-- The pairs of PushPopRoundTrips, each at a stack that wraps through address 0. -/
theorem witness_PushPopRoundTrips : ∀ p ∈ [(0x11#8, 0x16#8), (0x0F#8, 0x14#8), (0x0D#8, 0x12#8), (0x0E#8, 0x13#8),
      (0x10#8, 0x15#8), (0x11#8, 0x14#8)],
    let s := vec 0x05#8 0x0A#8 0x01#8 0x44#8 0x10#8 0xFE#8 [(0x10#8, p.1), (0x11#8, p.2)]
    ready s = true ∧ step s = .next (after s) ∧ step (after s) = .next (after (after s)) ∧ nextOpcode s = p.1 ∧
      nextOpcode (after s) = p.2 := by
  intro p hp
  fin_cases hp <;> exact ⟨by decide, rfl, rfl, by decide, by decide⟩

theorem witness_StackAsPushesLeaveIt :
    (image 255).length ≤ 255 ∧ 254 < (image 255).length ∧
    ∀ k < 255, (0x81#8 : Byte) ≠ 0x80#8 - BitVec.ofNat 8 k := by
  refine ⟨by simp [length_image], by simp [length_image], fun k hk h => ?_⟩
  have := congrArg BitVec.toNat h
  simp [BitVec.toNat_sub] at this
  omega

/-- Every byte of every push lands at the next `IP` from some state, and the last one at the cell after it, behind each
kind of instruction that reads an operand there. -/
theorem witness_PushedByteIsFetchedNext :
    (∀ p ∈ [(0x0D#8, 0), (0x0E#8, 0), (0x0F#8, 0), (0x0F#8, 1), (0x10#8, 0), (0x11#8, 0), (0x11#8, 1), (0x11#8, 2)],
      let s := vec 0x1F#8 0x02#8 (0x11#8 + BitVec.ofNat 8 p.2) 0x00#8 0x10#8 0x10#8 [(0x10#8, p.1)]
      ready s = true ∧ nextOpcode s = p.1 ∧ ((pushedBytes s)[p.2]?).isSome = true ∧
        s.sp - BitVec.ofNat 8 p.2 = s.ip + 1#8) ∧
    (∀ p ∈ [(0x0D#8, 0), (0x0E#8, 0), (0x0F#8, 1), (0x10#8, 0), (0x11#8, 2)], ∀ op ∈ [0x01#8, 0x05#8, 0x17#8],
      let s := vec 0x1F#8 0x02#8 (0x12#8 + BitVec.ofNat 8 p.2) 0x00#8 0x10#8 0x10#8 [(0x10#8, p.1), (0x11#8, op)]
      ready s = true ∧ nextOpcode s = p.1 ∧ ((pushedBytes s)[p.2]?).isSome = true ∧
        s.sp - BitVec.ofNat 8 p.2 = s.ip + 2#8 ∧ nextOpcode (after s) = op ∧
        jumpCondition op (after s) = decide (op = 0x17#8)) := by decide

/-- The clauses of AccessesInOrder: every opcode is some Running state's next. -/
theorem witness_AccessesInOrder : ∀ op : Byte,
    ready (sample op 0x40#8 0x10#8) = true ∧ nextOpcode (sample op 0x40#8 0x10#8) = op := witness_every_opcode

theorem witness_AccessesExplainTheTick :
    step (sample 0x11#8 0x00#8 0x00#8) = .next (after (sample 0x11#8 0x00#8 0x00#8)) := rfl

theorem witness_OneToFourAccesses :
    ready (sample 0x16#8 0x00#8 0x00#8) = true ∧ (tickAccesses (sample 0x16#8 0x00#8 0x00#8)).length = 4 := by decide

theorem witness_StepKeepsCanonicalMemory :
    State.wf (sample 0x11#8 0x00#8 0x00#8) = true ∧
    step (sample 0x11#8 0x00#8 0x00#8) = .next (after (sample 0x11#8 0x00#8 0x00#8)) := ⟨by decide, rfl⟩

theorem witness_CanonicalMemoryAtStart :
    loadImage [0x01#8, 0x00#8] State.reset = some { State.reset with mem := [(0, 0x01#8)] } := by decide

/-- A tick that halts: the record is not empty after it. -/
theorem witness_StepKeepsHaltRecord :
    HaltRecord (sample 0x00#8 0x00#8 0x00#8) ∧ step (sample 0x00#8 0x00#8 0x00#8) = .next sampleHalted ∧
    haltCause sampleHalted = some .haltInstruction :=
  ⟨fun h => absurd h (by decide), rfl, by decide⟩

theorem witness_HaltRecordAtStart :
    loadImage [0x1F#8] State.reset = some { State.reset with mem := [(0, 0x1F#8)] } := by decide

/-- A run that halts at an unrecognised opcode (P6). -/
theorem witness_HaltedRunTellsItsCause :
    Reachable (after { State.reset with mem := [(0, 0x1F#8)] }) ∧
    ready (after { State.reset with mem := [(0, 0x1F#8)] }) = false ∧
    (after { State.reset with mem := [(0, 0x1F#8)] }).ir = 0x1F#8 :=
  ⟨.tick _ _ (.start [0x1F#8] _ witness_HaltRecordAtStart) rfl, by decide, by decide⟩

/-- A session before its first tick and one after it. -/
theorem witness_HostCannotBreakTheBlock :
    SessionReachable Session.start ∧ Session.start.ticked = false ∧
    SessionReachable ⟨after State.reset, true⟩ :=
  ⟨.start, rfl, .op .tick _ _ .nothing .start rfl⟩

theorem witness_HostOperations :
    (Session.mk sampleHalted true).ticked = true ∧ Session.start.ticked = false ∧
    (image 256).length ≤ 256 ∧ 256 < (image 257).length := by simp [Session.start, length_image]

theorem witness_LoadPulsesMakeAnImage :
    Session.start.ticked = false ∧
    loadImage [0x01#8, 0x00#8] Session.start.block = some { State.reset with mem := [(0, 0x01#8)] } := by decide

/-- A session before its first tick and one after it, each with the block Running and with it Halted. -/
theorem witness_PinsCarryHostOperations :
    (Session.start.ticked = false ∧ halted Session.start.block = false) ∧
    ((Session.mk sampleHalted false).ticked = false ∧ halted (Session.mk sampleHalted false).block = true) ∧
    ((Session.mk State.reset true).ticked = true ∧ halted (Session.mk State.reset true).block = false) ∧
    (Session.mk sampleHalted true).ticked = true ∧ halted (Session.mk sampleHalted true).block = true := by decide

end Sys2Proof.Tests
end

section
/-! SUPPORT. The canonical form of memory: what a list in that form reads, and the form at the start of a run. -/

namespace Sys2Proof.Machine

/-- A listed cell reads as the byte listed with it. -/
theorem cellsRead_of_mem {cs : List Host.Cell} (rising : cs.Pairwise fun c d => c.1 < d.1) {c : Host.Cell}
    (listed : c ∈ cs) : cellsRead c.1 cs = c.2 := by
  induction cs with
  | nil => simp at listed
  | cons d cs ih =>
    obtain ⟨before, rising⟩ := List.pairwise_cons.mp rising
    obtain rfl | listed := List.mem_cons.mp listed
    · simp [cellsRead]
    · rw [cellsRead, if_neg (before c listed).ne, ih rising listed]

/-- An address that does not read as zero is listed. -/
theorem mem_of_cellsRead_ne {cs : List Host.Cell} {a : Nat} (h : cellsRead a cs ≠ Config.resetByte) :
    (a, cellsRead a cs) ∈ cs := by
  induction cs with
  | nil => exact absurd rfl h
  | cons d cs ih =>
    unfold cellsRead at h ⊢
    split
    · next hd => subst hd; exact List.mem_cons_self
    · next hd => rw [if_neg hd] at h; exact List.mem_cons_of_mem _ (ih h)

/-- A cell listed in a canonical memory is listed in every memory that reads like it. -/
theorem subset_of_memRead_eq {m n : Memory} (wf : Memory.wf m = true) (alike : ∀ a, memRead m a = memRead n a) :
    m ⊆ n := by
  intro c listed
  obtain ⟨rising, sound⟩ := (wf_iff m).mp wf
  obtain ⟨below, nonzero⟩ := sound c listed
  have below : c.1 < 2 ^ 8 := below
  have reads : cellsRead c.1 n = c.2 := by
    have := alike (BitVec.ofNatLT c.1 below)
    rwa [memRead, memRead, BitVec.toNat_ofNatLT, cellsRead_of_mem rising listed, eq_comm] at this
  simpa [reads] using mem_of_cellsRead_ne (reads ▸ nonzero : cellsRead c.1 n ≠ Config.resetByte)

/-- Settles O6: each memory lists the other's cells, and there is one rising order of them. -/
theorem memoriesThatReadAlikeAreEqual : Obligations.MemoriesThatReadAlikeAreEqual := by
  intro m n hm hn alike
  have : Std.Irrefl fun c d : Host.Cell => c.1 < d.1 := ⟨fun c => lt_irrefl c.1⟩
  have : Std.Antisymm fun c d : Host.Cell => c.1 < d.1 := ⟨fun _ _ h h' => absurd h h'.asymm⟩
  exact List.Subset.antisymm_of_pairwise ((wf_iff m).mp hm).1 ((wf_iff n).mp hn).1
    (subset_of_memRead_eq hm alike) (subset_of_memRead_eq hn fun a => (alike a).symm)

/-- Settles O47: LoadImage writes the empty memory of Reset, one cell after another. -/
theorem canonicalMemoryAtStart : Obligations.CanonicalMemoryAtStart := by
  refine ⟨reset_mem_wf, fun img s loaded => ?_⟩
  unfold loadImage at loaded
  split at loaded
  · obtain rfl := Option.some.inj loaded
    exact loadBytes_wf img _ _ reset_mem_wf
  · cases loaded

/-- Settles O7: the record of Reset, field by field. -/
theorem resetLeavesEverythingZero : Obligations.ResetLeavesEverythingZero :=
  ⟨fun _ => rfl, State.reset_ax, State.reset_bx, State.reset_sp, State.reset_bp, State.reset_ip, State.reset_ir,
    State.reset_flags, memRead_nil, rfl⟩

end Sys2Proof.Machine
end

section
/-! SUPPORT. The handlers by family. R54's opcode map sends every byte to one of six actions over registers; the tick of
a Running state is one equation over them (`step_running`), and what an instruction reads and writes is read off its
action. -/

namespace Sys2Proof.Machine

/-- `Push` of several registers, the first in the list first (R101 to R105). -/
def pushRegs (rs : List Reg) (s : State) : State := rs.foldl (fun t r => pushReg r t) s

/-- `Pop` into several registers, the first in the list first (R111 to R115). -/
def popRegs (rs : List Reg) (s : State) : State := rs.foldl (fun t r => popReg r t) s

/-- What handlers do, one constructor per family of 41_halt.md to 45_jump.md. -/
inductive Action where
  | halt
  | immediate (dst : Reg)
  | copy (dst src : Reg)
  | push (rs : List Reg)
  | pop (rs : List Reg)
  | jump

/-- The action of each opcode byte (R54); `Halt()` is that of 0x00 and of all unrecognised bytes (R80, R81). -/
def actionOf (op : Byte) : Action :=
  match op.toNat with
  | 0x01 => .immediate .ax
  | 0x02 => .copy .ax .bx
  | 0x03 => .copy .ax .sp
  | 0x04 => .copy .ax .bp
  | 0x05 => .immediate .bx
  | 0x06 => .copy .bx .ax
  | 0x07 => .copy .bx .sp
  | 0x08 => .copy .bx .bp
  | 0x09 => .copy .sp .ax
  | 0x0A => .copy .sp .bx
  | 0x0B => .copy .bp .ax
  | 0x0C => .copy .bp .bx
  | 0x0D => .push [.ax]
  | 0x0E => .push [.bx]
  | 0x0F => .push [.ax, .bx]
  | 0x10 => .push [.flags]
  | 0x11 => .push [.ax, .bx, .flags]
  | 0x12 => .pop [.ax]
  | 0x13 => .pop [.bx]
  | 0x14 => .pop [.bx, .ax]
  | 0x15 => .pop [.flags]
  | 0x16 => .pop [.flags, .bx, .ax]
  | 0x17 | 0x18 | 0x19 | 0x1A | 0x1B | 0x1C | 0x1D | 0x1E => .jump
  | _ => .halt

namespace Action

/-- What the action does to a Fetched state; a jump's condition depends on the opcode byte. -/
def apply (op operand : Byte) (s : State) : Action → State
  | halt => haltProcessor s
  | immediate dst => loadImmediate dst operand s
  | copy dst src => copyReg dst src s
  | push rs => pushRegs rs s
  | pop rs => popRegs rs s
  | jump => jumpIf (jumpCondition op s) operand s

/-- The registers the action may write (R24). -/
def written : Action → List Reg
  | halt => [.flags]
  | immediate dst => [.ip, dst]
  | copy dst _ => [dst]
  | push _ => [.sp]
  | pop rs => .sp :: rs
  | jump => [.ip]

/-- The registers whose value the action copies elsewhere; what a jump's condition compares is not among them. -/
def copied : Action → List Reg
  | copy _ src => [src]
  | push rs => rs
  | halt | immediate _ | pop _ | jump => []

/-- Only a push writes memory (R24). -/
def writesMemory : Action → Bool
  | push _ => true
  | halt | immediate _ | copy .. | pop _ | jump => false

end Action

/-- 0x00 and the unrecognised bytes halt (R80, R81). -/
theorem actionOf_halt {op : Byte} (h : op.toNat = 0x00 ∨ 0x1F ≤ op.toNat) : actionOf op = .halt := by
  unfold actionOf
  split
  case h_31 => rfl
  all_goals omega

/-- The comparator's `!=` as the condition of JUMP_NEQU is stated (R124). -/
theorem cmpNotEqual_eq_decide (a b : Byte) : cmpNotEqual a b = decide (a ≠ b) := by
  rw [Bool.eq_iff_iff]; simp [cmpNotEqual]

/-- `actionOf` is the decoder and the handlers together: one handler per opcode byte, with its operand. -/
theorem exec_decodeInstr (op operand : Byte) (s : State) :
    exec (decodeInstr op operand) s = .next ((actionOf op).apply op operand s) := by
  induction op using opcode_cases with
  | defined n hn =>
    interval_cases n
    -- the goal of 0x1A, JUMP_NEQU: the handler's comparator is `!=`, the condition of R129 is `≠`
    on_goal 27 => exact congrArg (fun c => (.next (jumpIf c operand s) : Result)) (cmpNotEqual_eq_decide s.ax s.bx)
    all_goals rfl
  | unrecognised op hop =>
    rw [decodeInstr_unrecognised op operand hop, exec_decodeUnrecognised, actionOf_halt (.inr hop), Action.apply]

/-- The Fetched state after the handler of its opcode (R68, R69). -/
def handled (s : State) : State := (actionOf (nextOpcode s)).apply (nextOpcode s) (nextOperand s) (fetch s)

/-- The tick of a Running state, as an equation (R66). -/
theorem step_running {s : State} (running : ready s = true) : step s = .next (advance (handled s)) := by
  rw [step, tick, (ready_eq_true s).mp running]
  simp only [Bool.false_eq_true, if_false, executeAndAdvance, decodedInstr_fetch]
  rw [exec_decodeInstr]
  rfl

/-- A step that answers a next state, by the gate of R67. -/
theorem eq_of_step {s t : State} (running : ready s = true) (h : step s = .next t) : t = advance (handled s) := by
  rw [step_running running] at h
  exact (Host.Outcome.next.inj h).symm

/-! ### Memory -/

theorem pushRegs_wf (rs : List Reg) (s : State) (wf : Memory.wf s.mem = true) :
    Memory.wf (pushRegs rs s).mem = true := by
  induction rs generalizing s with
  | nil => exact wf
  | cons r rs ih => exact ih (pushReg r s) (push_wf s _ wf)

theorem popRegs_mem (rs : List Reg) (s : State) : (popRegs rs s).mem = s.mem := by
  induction rs generalizing s with
  | nil => rfl
  | cons r rs ih => exact (ih (popReg r s)).trans (popReg_mem s r)

/-- Advance leaves memory alone (R70). -/
@[simp] theorem advance_mem (s : State) : (advance s).mem = s.mem := by rw [advance_eq]

/-- An action that is no push leaves memory alone (R24). -/
theorem apply_mem {a : Action} (h : a.writesMemory = false) (op operand : Byte) (s : State) :
    (a.apply op operand s).mem = s.mem := by
  cases a with
  | halt => rfl
  | immediate dst => exact writeReg_mem (fetchOperand s) operand dst
  | copy dst src => exact writeReg_mem s (readReg src s) dst
  | push rs => cases h
  | pop rs => exact popRegs_mem rs s
  | jump => rw [Action.apply, jumpIf_eq]

/-- Every handler keeps the canonical form: pushes do by `memWrite_wf`, the others leave memory alone. -/
theorem handled_wf (s : State) (wf : State.wf s = true) : State.wf (handled s) = true := by
  unfold handled State.wf
  cases h : (actionOf (nextOpcode s)).writesMemory with
  | false => rwa [apply_mem h]
  | true =>
    cases ha : actionOf (nextOpcode s) with
    | push rs => exact pushRegs_wf rs (fetch s) wf
    | _ => rw [ha] at h; cases h

/-- Settles O46: a Halted step changes nothing, and a handler keeps the form. -/
theorem stepKeepsCanonicalMemory : Obligations.StepKeepsCanonicalMemory := by
  intro s t wf h
  cases running : ready s with
  | true =>
    rw [eq_of_step running h, State.wf, advance_mem]
    exact handled_wf s wf
  | false =>
    obtain ⟨-, rfl⟩ | ⟨halted, -⟩ := step_next_cases h
    · exact wf
    · rw [(ready_eq_true s).mpr halted] at running; cases running

/-! ### Frame: what a register not written keeps -/

theorem readReg_writeReg_of_ne {q r : Reg} (h : q ≠ r) (v : Byte) (s : State) :
    readReg q (writeReg r v s) = readReg q s := by
  rw [readReg_writeReg, if_neg h]

/-- Advance is a write of `IP` (R70). -/
theorem advance_eq_writeReg (s : State) :
    advance s = writeReg .ip (if halted s then s.ip else s.ip + 1#8) s := advance_eq s

/-- A jump is a write of `IP` (R120). -/
theorem jumpIf_eq_writeReg (c : Bool) (target : Byte) (s : State) :
    jumpIf c target s = writeReg .ip (if c then target - 1#8 else s.ip + 1#8) s := jumpIf_eq s target c

theorem readReg_advance {q : Reg} (h : q ≠ .ip) (s : State) : readReg q (advance s) = readReg q s := by
  rw [advance_eq_writeReg, readReg_writeReg_of_ne h]

theorem readReg_fetch {q : Reg} (h : q ≠ .ir) (s : State) : readReg q (fetch s) = readReg q s :=
  readReg_writeReg_of_ne h _ s

theorem readReg_store (q : Reg) (a v : Byte) (s : State) : readReg q (store a v s) = readReg q s := by
  cases q <;> rfl

theorem readReg_pushRegs {q : Reg} (hsp : q ≠ .sp) (rs : List Reg) (s : State) :
    readReg q (pushRegs rs s) = readReg q s := by
  induction rs generalizing s with
  | nil => rfl
  | cons r rs ih =>
    calc readReg q (pushRegs rs (pushReg r s))
      _ = readReg q (pushReg r s) := ih _
      _ = readReg q (store s.sp (readReg r s) s) := readReg_writeReg_of_ne hsp _ _
      _ = readReg q s := readReg_store ..

theorem readReg_popRegs {q : Reg} {rs : List Reg} (hsp : q ≠ .sp) (hrs : q ∉ rs) (s : State) :
    readReg q (popRegs rs s) = readReg q s := by
  induction rs generalizing s with
  | nil => rfl
  | cons r rs ih =>
    obtain ⟨hr, hrs⟩ := List.ne_and_not_mem_of_not_mem_cons hrs
    calc readReg q (popRegs rs (popReg r s))
      _ = readReg q (popReg r s) := ih hrs _
      _ = readReg q (s.setSP (s.sp + 1#8)) := readReg_writeReg_of_ne hr _ _
      _ = readReg q s := readReg_writeReg_of_ne hsp _ _

/-- A register that is not among those written keeps its value (R24). -/
theorem readReg_apply {a : Action} {q : Reg} (h : q ∉ a.written) (op operand : Byte) (s : State) :
    readReg q (a.apply op operand s) = readReg q s := by
  cases a with
  | halt => exact readReg_writeReg_of_ne (List.ne_of_not_mem_cons h) _ s
  | immediate dst =>
    obtain ⟨hip, hdst⟩ := List.ne_and_not_mem_of_not_mem_cons h
    exact (readReg_writeReg_of_ne (List.ne_of_not_mem_cons hdst) _ _).trans (readReg_writeReg_of_ne hip _ s)
  | copy dst src => exact readReg_writeReg_of_ne (List.ne_of_not_mem_cons h) _ s
  | push rs => exact readReg_pushRegs (List.ne_of_not_mem_cons h) rs s
  | pop rs =>
    obtain ⟨hsp, hrs⟩ := List.ne_and_not_mem_of_not_mem_cons h
    exact readReg_popRegs hsp hrs s
  | jump =>
    rw [Action.apply, jumpIf_eq_writeReg]
    exact readReg_writeReg_of_ne (List.ne_of_not_mem_cons h) _ s

/-- No handler writes `IR`: it holds the byte fetched (R15). -/
theorem handled_ir (s : State) : (handled s).ir = nextOpcode s := by
  have : ∀ op : Byte, Reg.ir ∉ (actionOf op).written := by decide
  exact readReg_apply (q := .ir) (this _) ..

/-- A register that a tick changes, `IP` and `IR` apart, is one the fetched opcode's action writes. -/
theorem written_of_changed {s : State} {q : Reg} (hip : q ≠ .ip) (hir : q ≠ .ir)
    (changed : readReg q (advance (handled s)) ≠ readReg q s) : q ∈ (actionOf (nextOpcode s)).written := by
  by_contra h
  rw [readReg_advance hip, handled, readReg_apply h, readReg_fetch hir] at changed
  exact changed rfl

/-! R24's written-by column, read off the opcode map: the opcodes whose action writes each register, and memory. -/

theorem ax_writers : ∀ op : Byte, .ax ∈ (actionOf op).written →
    op.toNat ∈ [0x01, 0x02, 0x03, 0x04, 0x12, 0x14, 0x16] := by decide

theorem bx_writers : ∀ op : Byte, .bx ∈ (actionOf op).written →
    op.toNat ∈ [0x05, 0x06, 0x07, 0x08, 0x13, 0x14, 0x16] := by decide

theorem sp_writers : ∀ op : Byte, .sp ∈ (actionOf op).written →
    op.toNat ∈ [0x09, 0x0A, 0x0D, 0x0E, 0x0F, 0x10, 0x11, 0x12, 0x13, 0x14, 0x15, 0x16] := by decide

theorem bp_writers : ∀ op : Byte, .bp ∈ (actionOf op).written → op.toNat ∈ [0x0B, 0x0C] := by decide

theorem flags_writers : ∀ op : Byte, .flags ∈ (actionOf op).written →
    (op.toNat = 0x00 ∨ 0x1F ≤ op.toNat) ∨ op = 0x15#8 ∨ op = 0x16#8 := by decide

theorem memory_writers : ∀ op : Byte, (actionOf op).writesMemory = true →
    op.toNat ∈ [0x0D, 0x0E, 0x0F, 0x10, 0x11] := by decide

/-- Settles O35: what changes is written by the action, and R24's lists are the opcodes of the actions that write it. -/
theorem onlyListedInstructionsWrite : Obligations.OnlyListedInstructionsWrite := by
  intro s t running h
  obtain rfl := eq_of_step running h
  refine ⟨(readReg_advance (q := .ir) (by decide) _).trans (handled_ir s),
    fun changed => ax_writers _ (written_of_changed (q := .ax) (by decide) (by decide) changed),
    fun changed => bx_writers _ (written_of_changed (q := .bx) (by decide) (by decide) changed),
    fun changed => sp_writers _ (written_of_changed (q := .sp) (by decide) (by decide) changed),
    fun changed => bp_writers _ (written_of_changed (q := .bp) (by decide) (by decide) changed),
    fun changed => ?_, fun ⟨a, changed⟩ => memory_writers _ ?_⟩
  · have writes := flags_writers _ (written_of_changed (q := .flags) (by decide) (by decide) changed)
    rcases writes with (op | op) | op | op <;> simp [op]
  · by_contra kept
    rw [advance_mem, handled, apply_mem (by simpa using kept)] at changed
    exact changed rfl

/-- `Halt()` leaves every bit of FLAGS but bit 0 (R80). -/
theorem getLsbD_withHaltFlag (flags : Byte) {n : Nat} (h : n ≠ 0) :
    (withHaltFlag flags).getLsbD n = flags.getLsbD n := by
  simp [withHaltFlag, Config.haltBit, BitVec.getLsbD_one, h]

/-- The handler of HALT and of every unrecognised byte is `Halt()` (R80, R81). -/
theorem handled_halt {s : State} (h : (nextOpcode s).toNat = 0x00 ∨ 0x1F ≤ (nextOpcode s).toNat) :
    handled s = haltProcessor (fetch s) := by
  rw [handled, actionOf_halt h, Action.apply]

/-- POP_FLAG and POP_ALL load FLAGS whole from the byte above `SP` (R114, R115). -/
theorem handled_flags_of_pop {s : State} (h : nextOpcode s = 0x15#8 ∨ nextOpcode s = 0x16#8) :
    (handled s).flags = memRead s.mem (s.sp + 1#8) := by
  rw [handled]
  rcases h with h | h <;> rw [h] <;> rfl

/-- Settles O36: of the opcodes that write FLAGS, those that halt leave every bit but bit 0. -/
theorem onlyFlagsPopsChangeOtherBits : Obligations.OnlyFlagsPopsChangeOtherBits := by
  intro s t n h hn changed
  obtain ⟨-, rfl⟩ | ⟨running, -⟩ := step_next_cases h
  · exact absurd rfl changed
  have running := (ready_eq_true s).mpr running
  obtain rfl := eq_of_step running h
  have flags : (advance (handled s)).flags = (handled s).flags := readReg_advance (q := .flags) (by decide) _
  have writes := flags_writers _ (written_of_changed (q := .flags) (by decide) (by decide) fun same =>
    changed (congrArg (BitVec.getLsbD · n) same))
  rw [flags] at changed ⊢
  obtain halts | pop := writes
  · rw [handled_halt halts, haltProcessor_eq] at changed
    exact absurd (getLsbD_withHaltFlag s.flags hn) changed
  · exact ⟨running, pop, by rw [handled_flags_of_pop pop]⟩

/-! ### Noninterference: a register that a handler neither reads nor writes -/

/-- A state is its seven registers and its memory (R10). -/
theorem ext_readReg {s t : State} (regs : ∀ q, readReg q s = readReg q t) (mem : s.mem = t.mem) : s = t :=
  State.ext (regs .ax) (regs .bx) (regs .sp) (regs .bp) (regs .ip) (regs .ir) (regs .flags) mem

/-- Writes of two registers commute (R10). -/
theorem writeReg_comm {q r : Reg} (h : q ≠ r) (v w : Byte) (s : State) :
    writeReg r w (writeReg q v s) = writeReg q v (writeReg r w s) := by
  apply ext_readReg
  · intro p
    simp only [readReg_writeReg]
    split_ifs with hr hq
    · exact absurd (hq.symm.trans hr) h
    all_goals rfl
  · simp only [writeReg_mem]

theorem store_writeReg (q : Reg) (v a w : Byte) (s : State) :
    store a w (writeReg q v s) = writeReg q v (store a w s) := by
  cases q <;> rfl

theorem pushReg_writeReg {q r : Reg} (hsp : q ≠ .sp) (hr : q ≠ r) (v : Byte) (s : State) :
    pushReg r (writeReg q v s) = writeReg q v (pushReg r s) := by
  have sp : (writeReg q v s).sp = s.sp := readReg_writeReg_of_ne hsp.symm v s
  rw [pushReg, push, sp, readReg_writeReg_of_ne hr.symm, store_writeReg, ← writeReg_sp, writeReg_comm hsp]
  rfl

theorem popReg_writeReg {q r : Reg} (hsp : q ≠ .sp) (hr : q ≠ r) (v : Byte) (s : State) :
    popReg r (writeReg q v s) = writeReg q v (popReg r s) := by
  have sp : (writeReg q v s).sp = s.sp := readReg_writeReg_of_ne hsp.symm v s
  rw [popReg, sp, writeReg_mem, ← writeReg_sp, writeReg_comm hsp, writeReg_comm hr]
  rfl

theorem pushRegs_writeReg {q : Reg} {rs : List Reg} (hsp : q ≠ .sp) (hrs : q ∉ rs) (v : Byte) (s : State) :
    pushRegs rs (writeReg q v s) = writeReg q v (pushRegs rs s) := by
  induction rs generalizing s with
  | nil => rfl
  | cons r rs ih =>
    obtain ⟨hr, hrs⟩ := List.ne_and_not_mem_of_not_mem_cons hrs
    exact (congrArg (pushRegs rs) (pushReg_writeReg hsp hr v s)).trans (ih hrs (pushReg r s))

theorem popRegs_writeReg {q : Reg} {rs : List Reg} (hsp : q ≠ .sp) (hrs : q ∉ rs) (v : Byte) (s : State) :
    popRegs rs (writeReg q v s) = writeReg q v (popRegs rs s) := by
  induction rs generalizing s with
  | nil => rfl
  | cons r rs ih =>
    obtain ⟨hr, hrs⟩ := List.ne_and_not_mem_of_not_mem_cons hrs
    exact (congrArg (popRegs rs) (popReg_writeReg hsp hr v s)).trans (ih hrs (popReg r s))

/-- The value of a register that the action neither writes nor copies passes through it unread, where it makes no
difference to a jump's condition. -/
theorem apply_writeReg {a : Action} {q : Reg} {op v : Byte} {s : State}
    (written : q ∉ a.written) (copied : q ∉ a.copied)
    (condition : jumpCondition op (writeReg q v s) = jumpCondition op s) (operand : Byte) :
    a.apply op operand (writeReg q v s) = writeReg q v (a.apply op operand s) := by
  cases a with
  | halt =>
    have hq := List.ne_of_not_mem_cons written
    have flags : (writeReg q v s).flags = s.flags := readReg_writeReg_of_ne hq.symm v s
    rw [Action.apply, haltProcessor, flags, ← writeReg_flags, writeReg_comm hq]
    rfl
  | immediate dst =>
    obtain ⟨hip, hdst⟩ := List.ne_and_not_mem_of_not_mem_cons written
    have ip : (writeReg q v s).ip = s.ip := readReg_writeReg_of_ne hip.symm v s
    rw [Action.apply, loadImmediate, fetchOperand, incIP, ip, ← writeReg_ip, writeReg_comm hip,
      writeReg_comm (List.ne_of_not_mem_cons hdst)]
    rfl
  | copy dst src =>
    have src_kept := readReg_writeReg_of_ne (List.ne_of_not_mem_cons copied).symm v s
    rw [Action.apply, copyReg, src_kept, writeReg_comm (List.ne_of_not_mem_cons written)]
    rfl
  | push rs => exact pushRegs_writeReg (List.ne_of_not_mem_cons written) copied v s
  | pop rs =>
    obtain ⟨hsp, hrs⟩ := List.ne_and_not_mem_of_not_mem_cons written
    exact popRegs_writeReg hsp hrs v s
  | jump =>
    have hip := List.ne_of_not_mem_cons written
    have ip : (writeReg q v s).ip = s.ip := readReg_writeReg_of_ne hip.symm v s
    rw [Action.apply, condition, jumpIf_eq_writeReg, ip, writeReg_comm hip, ← jumpIf_eq_writeReg]
    rfl

/-- Settles O37: Fetch overwrites `IR` before anything reads it. -/
theorem oldIRMakesNoDifference : Obligations.OldIRMakesNoDifference := by
  intro s v running
  have running' : ready { s with ir := v } = true := running
  have fetched : fetch { s with ir := v } = fetch s := rfl
  rw [step_running running, step_running running', handled, fetched]
  rfl

/-- No opcode but the four copies reads or writes `BP` (R13). -/
theorem bp_unused : ∀ op : Byte, op.toNat ∉ [0x04, 0x08, 0x0B, 0x0C] →
    .bp ∉ (actionOf op).written ∧ .bp ∉ (actionOf op).copied := by decide

/-- Settles O38: where the action does not name `BP`, its value passes through the tick. -/
theorem bpHasNoFunction : Obligations.BPHasNoFunction := by
  intro s t v running noCopy h
  obtain ⟨written, copied⟩ := bp_unused _ noCopy
  obtain rfl := eq_of_step running h
  have running' : ready (s.setBP v) = true := running
  have through : handled (s.setBP v) = (handled s).setBP v :=
    apply_writeReg (q := .bp) (v := v) (s := fetch s) written copied rfl (nextOperand s)
  refine ⟨by_contra fun changed => written (written_of_changed (q := .bp) (by decide) (by decide) changed), ?_⟩
  refine (step_running running').trans (congrArg _ ?_)
  rw [through, advance_eq, advance_eq]
  rfl

/-! ### Noninterference: the reserved bits of FLAGS -/

/-- What O39 says of the states `t` and `u` after the same opcode `op`, started with the FLAGS `g` and `f` and the same
`SP`: `u` is `t` but for the reserved bits of FLAGS and the cell FLAGS is pushed to, where each finds its own. -/
structure ReservedApart (op sp g f : Byte) (t u : State) : Prop where
  regs : u = { t with flags := u.flags, mem := u.mem }
  halt : u.flags.getLsbD 0 = t.flags.getLsbD 0
  carry : u.flags.getLsbD 4 = t.flags.getLsbD 4
  sameMem : op.toNat ∉ [0x10, 0x11] → u.mem = t.mem
  pushFLAG : op = 0x10#8 → memRead u.mem sp = f ∧ memRead t.mem sp = g ∧
    ∀ a : Byte, a ≠ sp → memRead u.mem a = memRead t.mem a
  pushALL : op = 0x11#8 → memRead u.mem (sp - 2#8) = f ∧ memRead t.mem (sp - 2#8) = g ∧
    ∀ a : Byte, a ≠ sp - 2#8 → memRead u.mem a = memRead t.mem a

/-- Advance depends on FLAGS through the HALT bit only (R70). -/
theorem ReservedApart.afterAdvance {op sp g f : Byte} {t u : State} (h : ReservedApart op sp g f t u) :
    ReservedApart op sp g f (advance t) (advance u) := by
  obtain ⟨regs, halt, carry, sameMem, pushFLAG, pushALL⟩ := h
  have halted_eq : halted u = halted t := halt
  have ip : u.ip = t.ip := by rw [regs]
  rw [advance_eq u, advance_eq t, halted_eq, ip]
  exact ⟨by rw [regs], halt, carry, sameMem, pushFLAG, pushALL⟩

/-- An opcode that pushes no FLAGS leaves memory the same. -/
theorem ReservedApart.of_noPush {op sp g f : Byte} {t u : State} (noPush : op.toNat ∉ [0x10, 0x11])
    (regs : u = t.setFlags u.flags) (halt : u.flags.getLsbD 0 = t.flags.getLsbD 0)
    (carry : u.flags.getLsbD 4 = t.flags.getLsbD 4) : ReservedApart op sp g f t u := by
  have mem : u.mem = t.mem := by rw [regs]; rfl
  refine ⟨?_, halt, carry, fun _ => mem, ?_, ?_⟩
  · rw [mem]; exact regs
  all_goals rintro rfl; simp at noPush

/-- A push of FLAGS from two states that differ in FLAGS only. -/
theorem ReservedApart.of_push {op sp f : Byte} {s : State} (halt : f.getLsbD 0 = s.flags.getLsbD 0)
    (carry : f.getLsbD 4 = s.flags.getLsbD 4) (at_ : op = 0x10#8 ∧ s.sp = sp ∨ op = 0x11#8 ∧ s.sp = sp - 2#8) :
    ReservedApart op sp s.flags f (pushReg .flags s) (pushReg .flags (s.setFlags f)) := by
  have cells : memRead (pushReg .flags (s.setFlags f)).mem s.sp = f ∧ memRead (pushReg .flags s).mem s.sp = s.flags ∧
      ∀ a : Byte, a ≠ s.sp → memRead (pushReg .flags (s.setFlags f)).mem a = memRead (pushReg .flags s).mem a := by
    simp +contextual [pushReg, memRead_push]
  obtain ⟨rfl, rfl⟩ | ⟨rfl, sp⟩ := at_
  · exact ⟨rfl, halt, carry, fun noPush => absurd noPush (by decide), fun _ => cells,
      fun other => absurd other (by decide)⟩
  · exact ⟨rfl, halt, carry, fun noPush => absurd noPush (by decide), fun other => absurd other (by decide),
      fun _ => sp ▸ cells⟩

/-- The opcodes whose action copies FLAGS (R104, R105). -/
theorem flags_copiers : ∀ op : Byte, .flags ∈ (actionOf op).copied → op.toNat ∈ [0x10, 0x11] := by decide

/-- A jump's condition reads no bit of FLAGS but CARRY (R129). -/
theorem jumpCondition_setFlags (op : Byte) {f : Byte} {s : State} (carry : f.getLsbD 4 = s.flags.getLsbD 4) :
    jumpCondition op (s.setFlags f) = jumpCondition op s := by
  simp only [jumpCondition, State.setFlags_flags, carry]
  rfl

/-- Fetch reads no FLAGS, so the same opcode is handled with the same operand (R68). -/
theorem handled_setFlags (s : State) (f : Byte) :
    handled (s.setFlags f) =
      (actionOf (nextOpcode s)).apply (nextOpcode s) (nextOperand s) ((fetch s).setFlags f) := rfl

section
variable {s : State} {f : Byte} (halt : f.getLsbD 0 = s.flags.getLsbD 0) (carry : f.getLsbD 4 = s.flags.getLsbD 4)
include halt carry

/-- The two handlers that push FLAGS, PUSH_ALL after AX and BX (R104, R105). -/
theorem reservedApart_of_push (push : (nextOpcode s).toNat ∈ [0x10, 0x11]) :
    ReservedApart (nextOpcode s) s.sp s.flags f (handled s) (handled (s.setFlags f)) := by
  have op : nextOpcode s = 0x10#8 ∨ nextOpcode s = 0x11#8 := by simpa [← BitVec.toNat_inj] using push
  have two : s.sp - 1#8 - 1#8 = s.sp - 2#8 := by bv_omega
  rw [handled, handled_setFlags]
  rcases op with op | op <;> rw [op]
  · exact .of_push (s := fetch s) halt carry (.inl ⟨rfl, rfl⟩)
  · exact .of_push (s := pushRegs [.ax, .bx] (fetch s)) halt carry (.inr ⟨rfl, two⟩)

/-- The handlers that push no FLAGS: `Halt()` sets bit 0 only, the FLAGS pops overwrite all of it, and through all
others FLAGS passes unread but for CARRY. -/
theorem reservedApart_of_noPush (noPush : (nextOpcode s).toNat ∉ [0x10, 0x11]) :
    ReservedApart (nextOpcode s) s.sp s.flags f (handled s) (handled (s.setFlags f)) := by
  by_cases written : .flags ∈ (actionOf (nextOpcode s)).written
  · obtain halts | pops := flags_writers _ written
    · rw [handled_halt halts, handled_halt (s := s.setFlags f) halts]
      refine .of_noPush noPush rfl ((halted_haltProcessor _).trans (halted_haltProcessor _).symm) ?_
      rw [haltProcessor_eq, haltProcessor_eq, getLsbD_withHaltFlag _ (by decide), getLsbD_withHaltFlag _ (by decide)]
      exact carry
    · have same : handled (s.setFlags f) = handled s := by
        rw [handled_setFlags, handled]
        rcases pops with op | op <;> rw [op] <;> rfl
      rw [same]
      exact .of_noPush noPush rfl rfl rfl
  · have copied := fun named => noPush (flags_copiers (nextOpcode s) named)
    have through : handled (s.setFlags f) = (handled s).setFlags f :=
      apply_writeReg (q := .flags) (s := fetch s) written copied (jumpCondition_setFlags _ carry) _
    have kept : (handled s).flags = s.flags := readReg_apply (q := .flags) written _ _ (fetch s)
    rw [through]
    exact .of_noPush noPush rfl (kept ▸ halt) (kept ▸ carry)

end

/-- Settles O39: the two handlers leave states that differ as `ReservedApart` says, and Advance keeps the difference. -/
theorem reservedFlagsAffectNothing : Obligations.ReservedFlagsAffectNothing := by
  intro s t f running low carry h
  obtain rfl := eq_of_step running h
  have clear : s.flags.getLsbD 0 = false := (ready_eq_true s).mp running
  have running' : ready (s.setFlags f) = true := (ready_eq_true _).mpr low
  have halt := low.trans clear.symm
  obtain ⟨regs, halt, carry, sameMem, pushFLAG, pushALL⟩ :
      ReservedApart (nextOpcode s) s.sp s.flags f (advance (handled s)) (advance (handled (s.setFlags f))) := by
    by_cases push : (nextOpcode s).toNat ∈ [0x10, 0x11]
    · exact (reservedApart_of_push halt carry push).afterAdvance
    · exact (reservedApart_of_noPush halt carry push).afterAdvance
  exact ⟨_, step_running running', regs, halt, carry, sameMem, pushFLAG, pushALL⟩

end Sys2Proof.Machine
end

section
/-! SUPPORT. What pushed bytes do to memory, the tick of a push, and what the tick after it fetches there (R43). -/

namespace Sys2Proof.Machine

/-! ### A sequence of pushes -/

/-- `Push` of several bytes, the first in the list first (R106). -/
def pushBytes (vs : List Byte) (s : State) : State := vs.foldl (fun t v => push v t) s

/-- Cell `S - (k + 1)` is the `k`-th below cell `S - 1`. -/
theorem sub_ofNat_succ (a : Byte) (k : Nat) : a - BitVec.ofNat 8 (k + 1) = a - 1#8 - BitVec.ofNat 8 k := by
  rw [BitVec.ofNat_add, add_comm, sub_add_eq_sub_sub]

/-- Of the 256 cells from `S` down, only the first is cell `S`. -/
theorem sub_ofNat_succ_ne (a : Byte) {k : Nat} (h : k + 1 < 256) : a - BitVec.ofNat 8 (k + 1) ≠ a := by
  bv_omega

/-- Pushes write `SP` and memory and nothing else (R106). -/
theorem pushBytes_eq (vs : List Byte) (s : State) :
    pushBytes vs s = { s with sp := s.sp - BitVec.ofNat 8 vs.length, mem := (pushBytes vs s).mem } := by
  induction vs generalizing s with
  | nil => simp [pushBytes]
  | cons v vs ih =>
    refine (ih (push v s)).trans ?_
    rw [List.length_cons, sub_ofNat_succ]
    rfl

/-- A cell that none of the pushes addresses keeps its byte (R106). -/
theorem memRead_pushBytes_of_ne {vs : List Byte} {s : State} {a : Byte}
    (h : ∀ k < vs.length, a ≠ s.sp - BitVec.ofNat 8 k) : memRead (pushBytes vs s).mem a = memRead s.mem a := by
  induction vs generalizing s with
  | nil => rfl
  | cons v vs ih =>
    have first : a ≠ s.sp := by simpa using h 0 (Nat.succ_pos _)
    have later : ∀ k < vs.length, a ≠ (push v s).sp - BitVec.ofNat 8 k := fun k hk =>
      sub_ofNat_succ s.sp k ▸ h (k + 1) (Nat.succ_lt_succ hk)
    calc memRead (pushBytes vs (push v s)).mem a
      _ = memRead (push v s).mem a := ih later
      _ = memRead s.mem a := by rw [memRead_push, if_neg first]

/-- The `k`-th of at most 256 bytes pushed is in cell `S - k`: no later push reaches it (R106). -/
theorem memRead_pushBytes {vs : List Byte} (short : vs.length ≤ 256) {s : State} {k : Nat} {v : Byte}
    (pushed : vs[k]? = some v) : memRead (pushBytes vs s).mem (s.sp - BitVec.ofNat 8 k) = v := by
  induction vs generalizing s k with
  | nil => simp at pushed
  | cons w vs ih =>
    rw [List.length_cons] at short
    cases k with
    | zero =>
      obtain rfl : w = v := by simpa using pushed
      have kept : ∀ k < vs.length, s.sp ≠ (push w s).sp - BitVec.ofNat 8 k := fun k hk =>
        sub_ofNat_succ s.sp k ▸ (sub_ofNat_succ_ne s.sp (by omega)).symm
      calc memRead (pushBytes vs (push w s)).mem (s.sp - 0#8)
        _ = memRead (push w s).mem s.sp := by rw [BitVec.sub_zero, memRead_pushBytes_of_ne kept]
        _ = w := by rw [memRead_push, if_pos rfl]
    | succ k =>
      rw [sub_ofNat_succ]
      exact ih (s := push w s) (by omega) (by simpa using pushed)

/-! ### The tick of a push -/

/-- A push instruction pushes one to three bytes (R101 to R105). -/
theorem length_pushedBytes_le (s : State) : (pushedBytes s).length ≤ 3 := by
  unfold pushedBytes
  split <;> simp

/-- What the five handlers do is push the bytes that `pushedBytes` lists, and there is at least one (R101 to R105). -/
theorem handled_push {s : State} (low : 0x0D ≤ (nextOpcode s).toNat) (high : (nextOpcode s).toNat ≤ 0x11) :
    pushedBytes s ≠ [] ∧ handled s = pushBytes (pushedBytes s) (fetch s) := by
  have op : nextOpcode s = 0x0D#8 ∨ nextOpcode s = 0x0E#8 ∨ nextOpcode s = 0x0F#8 ∨ nextOpcode s = 0x10#8 ∨
      nextOpcode s = 0x11#8 := by bv_omega
  unfold handled pushedBytes
  rcases op with op | op | op | op | op <;> rw [op] <;> exact ⟨List.cons_ne_nil _ _, rfl⟩

/-- What the tick of a push leaves: the bytes in memory, `SP` below them, and the next instruction at `IP`. -/
def afterPush (s : State) : State :=
  { s with
    sp := s.sp - BitVec.ofNat 8 (pushedBytes s).length
    ip := s.ip + 1#8
    ir := nextOpcode s
    mem := (pushBytes (pushedBytes s) (fetch s)).mem }

/-- The tick of a push: no handler of one sets the HALT bit, so Advance moves `IP` on (R101 to R105). -/
theorem step_push {s : State} (running : ready s = true) (low : 0x0D ≤ (nextOpcode s).toNat)
    (high : (nextOpcode s).toNat ≤ 0x11) : step s = .next (afterPush s) := by
  have clear : haltFlag s.flags = false := (ready_eq_true s).mp running
  obtain ⟨-, handler⟩ := handled_push low high
  rw [step_running running, handler, pushBytes_eq, advance_eq]
  simp [halted, fetch_eq, clear, nextOpcode, afterPush]

/-- The `k`-th byte of a push is in cell `SP - k` after the tick (R101 to R105). -/
theorem memRead_afterPush {s : State} {k : Nat} {v : Byte} (pushed : (pushedBytes s)[k]? = some v) :
    memRead (afterPush s).mem (s.sp - BitVec.ofNat 8 k) = v :=
  memRead_pushBytes ((length_pushedBytes_le s).trans (by decide)) (s := fetch s) pushed

/-! ### What a tick fetches -/

/-- A tick of a Running state leaves the opcode it fetched in `IR` (R68). -/
theorem advance_handled_ir (s : State) : (advance (handled s)).ir = nextOpcode s :=
  (readReg_advance (q := .ir) (by decide) _).trans (handled_ir s)

/-- An immediate load leaves its operand in its destination (R86, R90). -/
theorem readReg_of_immediate {s : State} {dst : Reg} (hip : dst ≠ .ip)
    (immediate : actionOf (nextOpcode s) = .immediate dst) :
    readReg dst (advance (handled s)) = nextOperand s := by
  rw [readReg_advance hip, handled, immediate, Action.apply, loadImmediate, readReg_writeReg, if_pos rfl]

/-- Only a jump has a condition that holds (R129). -/
theorem actionOf_of_jumpCondition {op : Byte} {s : State} (taken : jumpCondition op s = true) :
    actionOf op = .jump := by
  unfold jumpCondition at taken
  split at taken
  case h_9 => cases taken
  all_goals next op => simp only [actionOf, op]

/-- A jump that is taken goes to its operand (R120, R121). -/
theorem ip_of_taken {s : State} (running : ready s = true) (taken : jumpCondition (nextOpcode s) s = true) :
    (advance (handled s)).ip = nextOperand s := by
  have fetched : jumpCondition (nextOpcode s) (fetch s) = true := taken
  have clear : haltFlag s.flags = false := (ready_eq_true s).mp running
  rw [handled, actionOf_of_jumpCondition taken, Action.apply, fetched, jumpIf_eq, advance_eq]
  simp [halted, fetch_eq, clear]

/-- Settles O42: the pushed byte is in its cell when the next tick reads its opcode and its operand. -/
theorem pushedByteIsFetchedNext : Obligations.PushedByteIsFetchedNext := by
  intro s running low high
  have still_running : ready (afterPush s) = true := running
  have second : s.ip + 1#8 + 1#8 = s.ip + 2#8 := BitVec.add_assoc ..
  obtain ⟨some_pushed, -⟩ := handled_push low high
  refine ⟨some_pushed, afterPush s, advance (handled (afterPush s)), step_push running low high, still_running, rfl,
    step_running still_running, fun k v pushed => ⟨fun cell => ?_, fun cell => ?_⟩⟩
  all_goals have stored := memRead_afterPush pushed
  · have opcode : nextOpcode (afterPush s) = v := by rwa [cell] at stored
    exact ⟨opcode, (advance_handled_ir _).trans opcode⟩
  · have operand : nextOperand (afterPush s) = v := by rwa [cell, ← second] at stored
    refine ⟨operand, fun op => ?_, fun op => ?_, fun taken => (ip_of_taken still_running taken).trans operand⟩
    · exact (readReg_of_immediate (dst := .ax) (by decide) (by rw [op]; rfl)).trans operand
    · exact (readReg_of_immediate (dst := .bx) (by decide) (by rw [op]; rfl)).trans operand

end Sys2Proof.Machine
end

section
/-! SUPPORT. The decoder, the encoder and the opcode table: one map of the opcode bytes (30_encoding.md). -/

namespace Sys2Proof

/-! ### The bytes of a decoded instruction -/

/-- The bytes that an opcode byte claims: itself, and its operand where the length of R58 is two. -/
def claimedBytes (op operand : Byte) : List Byte := op :: if opcodeLength op = 2 then [operand] else []

theorem length_claimedBytes (op operand : Byte) : (claimedBytes op operand).length = opcodeLength op := by
  unfold claimedBytes opcodeLength
  split <;> rfl

/-- An unrecognised byte has no operand (R56, R58). -/
theorem opcodeLength_unrecognised {op : Byte} (h : 0x1F ≤ op.toNat) : opcodeLength op = 1 := by
  obtain h | h := h.eq_or_lt
  · obtain rfl : op = 0x1F#8 := BitVec.eq_of_toNat_eq h.symm
    rfl
  · exact Laws.EncodeLength.length_of_high op h

/-- Whichever row covers it, an unrecognised byte is kept whole (R59). -/
theorem encode_decodeUnrecognised (op : Byte) : encode (decodeUnrecognised op) = [op] := by
  obtain ⟨row, rfl⟩ | row | row | row := decodeUnrecognised_cases op
  · rfl
  all_goals rw [row]; rfl

/-- The encoder inverts the opcode map: the bytes of a decoded instruction are those its opcode byte claims. -/
theorem encode_decodeInstr (op operand : Byte) : encode (decodeInstr op operand) = claimedBytes op operand := by
  induction op using Machine.opcode_cases with
  | defined n hn => interval_cases n <;> rfl
  | unrecognised op hop =>
    rw [decodeInstr_unrecognised op operand hop, encode_decodeUnrecognised, claimedBytes,
      opcodeLength_unrecognised hop]
    rfl

/-! ### Well-formedness -/

/-- The four rows for unrecognised bytes cover exactly those from 0x1F on (R59). -/
theorem wf_decodeUnrecognised : ∀ op : Byte, (decodeUnrecognised op).wf = true ↔ 0x1F ≤ op.toNat := by decide

/-- Every opcode byte and every operand is decoded to a term that stands for bytes (R56, R57). -/
theorem wf_decodeInstr (op operand : Byte) : (decodeInstr op operand).wf = true := by
  induction op using Machine.opcode_cases with
  | defined n hn => interval_cases n <;> rfl
  | unrecognised op hop => rwa [decodeInstr_unrecognised op operand hop, wf_decodeUnrecognised]

/-- The opcode map answers an unrecognised instruction for the unrecognised bytes only: below 0x1F `decodeUnrecognised`
is ill-formed, and the opcode map never is. -/
theorem decodeInstr_eq_decodeUnrecognised_iff (op operand : Byte) :
    decodeInstr op operand = decodeUnrecognised op ↔ 0x1F ≤ op.toNat := by
  refine ⟨fun same => (wf_decodeUnrecognised op).mp ?_, decodeInstr_unrecognised op operand⟩
  exact same ▸ wf_decodeInstr op operand

/-! ### Decoding a list of bytes -/

/-- A list that decodes holds the bytes an opcode byte claims, and then the rest. -/
theorem eq_claimedBytes_of_decode {bytes rest : List Byte} {i : Instr} (h : decode bytes = .ok i rest) :
    ∃ op operand : Byte, i = decodeInstr op operand ∧ bytes = claimedBytes op operand ++ rest := by
  unfold decode at h
  split at h
  · cases h
  next op tail =>
    split at h
    next two =>
      split at h
      · cases h
      next operand tail =>
        cases h
        exact ⟨op, operand, rfl, by simp [claimedBytes, two]⟩
    next one =>
      cases h
      exact ⟨op, 0x00#8, rfl, by simp [claimedBytes, one]⟩

/-- Settles O3: the decoder reads what the opcode byte claims, and the encoder writes the same. -/
theorem encodeOfDecode : Obligations.EncodeOfDecode := by
  intro bytes rest i h
  obtain ⟨op, operand, rfl, rfl⟩ := eq_claimedBytes_of_decode h
  exact ⟨wf_decodeInstr op operand, by rw [encode_decodeInstr]⟩

/-- An unrecognised byte decodes by itself, with no byte after it read (R56). -/
theorem decode_unrecognised {op : Byte} (h : 0x1F ≤ op.toNat) (rest : List Byte) :
    decode (op :: rest) = .ok (decodeUnrecognised op) rest := by
  simp [decode, opcodeLength_unrecognised h, decodeInstr_unrecognised op _ h]

/-- The rows for unrecognised bytes share no byte: a byte that one covers is decoded by that row (R59). -/
theorem decodeUnrecognised_of_wf :
    ∀ row ∈ [Instr.unrecognised20To3F, .unrecognised40To7F, .unrecognised80ToFF], ∀ op : Byte,
      (row op).wf = true → decodeUnrecognised op = row op := by decide

/-- A row for several unrecognised bytes decodes every byte it covers. -/
theorem decode_unrecognisedRow {row : Byte → Instr}
    (listed : row ∈ [Instr.unrecognised20To3F, .unrecognised40To7F, .unrecognised80ToFF]) {op : Byte}
    (wf : (row op).wf = true) (rest : List Byte) : decode (op :: rest) = .ok (row op) rest := by
  have covers := decodeUnrecognised_of_wf row listed op wf
  have unrecognised : 0x1F ≤ op.toNat := (wf_decodeUnrecognised op).mp (covers ▸ wf)
  rw [decode_unrecognised unrecognised, covers]

/-- Settles O2: a row of one opcode byte decodes by evaluation, and a row for several unrecognised bytes by the byte the
instruction carries. -/
theorem decodeOfEncode : Obligations.DecodeOfEncode := by
  intro i rest wf
  cases i with
  | unrecognised20To3F op => exact decode_unrecognisedRow (by simp) wf rest
  | unrecognised40To7F op => exact decode_unrecognisedRow (by simp) wf rest
  | unrecognised80ToFF op => exact decode_unrecognisedRow (by simp) wf rest
  | _ => rfl

/-- Settles O1, by running the decoder on the words. -/
theorem specWordsDecode : Obligations.SpecWordsDecode := by
  unfold Obligations.SpecWordsDecode
  decide

/-! ### The opcode table -/

/-- The table's row for an opcode byte: an exact match up to 0x1F, and then one of three that leave bits open (R59). -/
def rowOf (op : Byte) : OpcodeRow :=
  if op.toNat ≤ 0x1F then ⟨op, 0xFF#8, opcodeLength op⟩
  else if op.toNat ≤ 0x3F then ⟨0x20#8, 0xE0#8, 1⟩
  else if op.toNat ≤ 0x7F then ⟨0x40#8, 0xC0#8, 1⟩
  else ⟨0x80#8, 0x80#8, 1⟩

/-- The table has that row for the byte and no other (R59). -/
theorem selectedRows_eq : ∀ op : Byte, selectedRows op = [rowOf op] := by decide

theorem rowOf_of_le {op : Byte} (h : op.toNat ≤ 0x1F) : rowOf op = ⟨op, 0xFF#8, opcodeLength op⟩ := if_pos h

/-- The rows that leave bits open are one byte long (R56). -/
theorem rowOf_of_lt {op : Byte} (h : 0x1F < op.toNat) : (rowOf op).length = 1 ∧ (rowOf op).mask ≠ 0xFF#8 := by
  rw [rowOf, if_neg h.not_ge]
  split
  · decide
  · split <;> decide

/-- The table gives the length of R58. -/
theorem length_rowOf (op : Byte) : (rowOf op).length = opcodeLength op := by
  obtain h | h := le_or_gt op.toNat 0x1F
  · rw [rowOf_of_le h]
  · rw [(rowOf_of_lt h).1, opcodeLength_unrecognised h.le]

/-- The exact matches are the rows of the bytes up to 0x1F (R59). -/
theorem mask_rowOf_eq_iff (op : Byte) : (rowOf op).mask = 0xFF#8 ↔ op.toNat ≤ 0x1F := by
  obtain h | h := le_or_gt op.toNat 0x1F
  · rw [rowOf_of_le h]
    exact iff_of_true rfl h
  · exact iff_of_false (rowOf_of_lt h).2 h.not_ge

/-- Settles O4: the row is `rowOf`. -/
theorem everyByteSelectsOneRow : Obligations.EveryByteSelectsOneRow :=
  fun op => ⟨rowOf op, selectedRows_eq op, length_rowOf op, mask_rowOf_eq_iff op⟩

/-- Settles O5: the decoded instruction's bytes are those its opcode byte claims, as many as the table's row says. -/
theorem decoderAgreesWithTable : Obligations.DecoderAgreesWithTable := by
  intro op operand r selected
  obtain rfl : r = rowOf op := by rwa [selectedRows_eq, List.mem_singleton] at selected
  rw [encode_decodeInstr, length_claimedBytes, length_rowOf]
  exact ⟨rfl, rfl, (decodeInstr_eq_decodeUnrecognised_iff op operand).symm⟩

end Sys2Proof
end

section
/-! SUPPORT. The tick as a cycle (40_execution_cycle.md): the gate of R67, the instruction decoded at `IP`, what a tick
does to `IP` and which ticks halt, and the record that a halt leaves (41_halt.md R82). -/

namespace Sys2Proof.Machine

/-! ### The gate and the decoded instruction -/

/-- A tick of a Halted state changes nothing (R67). -/
theorem step_halted {s : State} (h : halted s = true) : step s = .next s := if_pos h

/-- Every tick is answered (R135, R136). -/
theorem exists_step (s : State) : ∃ t, step s = .next t := by
  cases running : ready s with
  | true => exact ⟨_, step_running running⟩
  | false => exact ⟨s, step_halted (by simpa [ready] using running)⟩

/-- Settles O10: the gate of R67, for the step, for its accesses and for `Ready()`. -/
theorem haltedTickChangesNothing : Obligations.HaltedTickChangesNothing :=
  fun s h => ⟨step_halted h, if_pos h, by rw [ready, h]; rfl⟩

/-- Two bytes always hold a whole instruction (R50, R56, R57): they are the bytes that the first claims, and perhaps one
more. -/
theorem exists_decode_pair (op operand : Byte) :
    ∃ rest, decode [op, operand] = .ok (decodeInstr op operand) rest := by
  obtain ⟨rest, bytes⟩ : ∃ rest, claimedBytes op operand ++ rest = [op, operand] := by
    unfold claimedBytes
    split
    · exact ⟨[], rfl⟩
    · exact ⟨[operand], rfl⟩
  rw [← encode_decodeInstr] at bytes
  exact ⟨rest, bytes ▸ decodeOfEncode _ rest (wf_decodeInstr op operand)⟩

/-- Settles O12: the decoder reads the instruction whose handler `step_running` puts between Fetch and Advance. -/
theorem tickRunsDecodedInstruction : Obligations.TickRunsDecodedInstruction := by
  intro s running
  obtain ⟨rest, decoded⟩ := exists_decode_pair (nextOpcode s) (nextOperand s)
  exact ⟨_, rest, handled s, decoded, wf_decodeInstr _ _, exec_decodeInstr _ _ (fetch s), step_running running⟩

/-! ### Which ticks halt, and `IP` after a tick -/

/-- The opcodes that set the HALT bit or load it from the stack write FLAGS (R24). -/
theorem flags_written : ∀ op : Byte, (op.toNat = 0x00 ∨ 0x1F ≤ op.toNat) ∨ op = 0x15#8 ∨ op = 0x16#8 →
    .flags ∈ (actionOf op).written := by decide

/-- The opcodes whose handler moves `IP` are those with an operand byte (R53, R58). -/
theorem ip_writers : ∀ op : Byte, .ip ∈ (actionOf op).written ↔ opcodeLength op = 2 := by decide

/-- No handler writes both FLAGS and `IP` (R24). -/
theorem ip_not_written_of_flags : ∀ op : Byte, .flags ∈ (actionOf op).written → .ip ∉ (actionOf op).written := by
  decide

/-- The opcodes from 0x17 to 0x1E are the jumps (R54). -/
theorem actionOf_jump {op : Byte} (low : 0x17 ≤ op.toNat) (high : op.toNat ≤ 0x1E) : actionOf op = .jump := by
  unfold actionOf
  generalize op.toNat = n at low high
  interval_cases n <;> rfl

/-- Advance leaves the HALT bit alone (R70). -/
theorem halted_advance (s : State) : halted (advance s) = halted s := by rw [advance_eq]; rfl

/-- A handler that does not write FLAGS leaves a Running Processor Running (R17). -/
theorem running_of_flags_kept {s : State} (running : ready s = true)
    (kept : .flags ∉ (actionOf (nextOpcode s)).written) : halted (handled s) = false := by
  have flags : (handled s).flags = s.flags := readReg_apply (q := .flags) kept _ _ (fetch s)
  rw [halted, flags]
  exact (ready_eq_true s).mp running

/-- A handler without an operand leaves `IP` alone. -/
theorem handled_ip_of_not_written {s : State} (kept : .ip ∉ (actionOf (nextOpcode s)).written) :
    (handled s).ip = s.ip :=
  readReg_apply (q := .ip) kept _ _ (fetch s)

/-- The handlers that leave a Running Processor Halted (R80, R81, R117). -/
theorem halted_handled_iff {s : State} (running : ready s = true) :
    halted (handled s) = true ↔ ((nextOpcode s).toNat = 0x00 ∨ 0x1F ≤ (nextOpcode s).toNat) ∨
      ((nextOpcode s = 0x15#8 ∨ nextOpcode s = 0x16#8) ∧ (memRead s.mem (s.sp + 1#8)).getLsbD 0 = true) := by
  by_cases written : .flags ∈ (actionOf (nextOpcode s)).written
  · obtain halts | pops := flags_writers _ written
    · rw [handled_halt halts, halted_haltProcessor]
      exact iff_of_true rfl (.inl halts)
    · have noHalt : ¬((nextOpcode s).toNat = 0x00 ∨ 0x1F ≤ (nextOpcode s).toNat) := by
        rcases pops with op | op <;> rw [op] <;> decide
      rw [halted, handled_flags_of_pop pops]
      exact ⟨fun odd => .inr ⟨pops, odd⟩, fun h => (h.resolve_left noHalt).2⟩
  · rw [running_of_flags_kept running written]
    refine iff_of_false Bool.false_ne_true fun h => written (flags_written _ ?_)
    exact h.imp_right And.left

/-- A tick that halts leaves `IP` where it is (R71). -/
theorem ip_of_halts {s : State} (running : ready s = true) (halts : halted (handled s) = true) :
    (advance (handled s)).ip = s.ip := by
  have written : .flags ∈ (actionOf (nextOpcode s)).written := by
    by_contra kept
    rw [running_of_flags_kept running kept] at halts
    cases halts
  rw [advance, if_pos halts, handled_ip_of_not_written (ip_not_written_of_flags _ written)]

/-- A handler that leaves the Processor Running is followed by one more step of `IP` (R70). -/
theorem ip_of_runs {s : State} (runs : halted (handled s) = false) :
    (advance (handled s)).ip = (handled s).ip + 1#8 := by
  simp [advance_eq, runs]

/-- No instruction with an operand writes FLAGS, so none halts (R71). -/
theorem runs_of_two_bytes {s : State} (running : ready s = true) (two : opcodeLength (nextOpcode s) = 2) :
    halted (handled s) = false :=
  running_of_flags_kept running fun written => ip_not_written_of_flags _ written ((ip_writers _).mpr two)

/-- The handler of a jump, by its condition (R120). -/
theorem handled_jump_ip {s : State} (jump : actionOf (nextOpcode s) = .jump) :
    (handled s).ip = if jumpCondition (nextOpcode s) s then nextOperand s - 1#8 else s.ip + 1#8 := by
  rw [handled, jump, Action.apply, jumpIf_eq]
  rfl

/-- Settles O34: Advance adds one to what the handler leaves in `IP`, unless the handler halts. -/
theorem netEffectOnIP : Obligations.NetEffectOnIP := by
  intro s t running h
  obtain rfl := eq_of_step running h
  have second : s.ip + 1#8 + 1#8 = s.ip + 2#8 := BitVec.add_assoc ..
  have zero : nextOpcode s = 0x00#8 ↔ (nextOpcode s).toNat = 0x00 := BitVec.toNat_inj.symm
  have ready_iff : ready (advance (handled s)) = false ↔ halted (handled s) = true := by
    rw [ready, halted_advance, Bool.not_eq_false']
  refine ⟨?_, fun stops => ip_of_halts running (ready_iff.mp stops), fun runs one => ?_, fun load => ?_,
    fun low high => ?_⟩
  · rw [ready_iff, halted_handled_iff running, or_assoc, zero]
  · have noOperand : .ip ∉ (actionOf (nextOpcode s)).written := by simp [ip_writers, one]
    rw [ready_eq_true, halted_advance] at runs
    rw [ip_of_runs runs, handled_ip_of_not_written noOperand]
  · have two : opcodeLength (nextOpcode s) = 2 := by rcases load with op | op <;> rw [op] <;> rfl
    have first : (handled s).ip = s.ip + 1#8 := by rw [handled]; rcases load with op | op <;> rw [op] <;> rfl
    rw [ip_of_runs (runs_of_two_bytes running two), first, second]
  · have jump := actionOf_jump low high
    have two : opcodeLength (nextOpcode s) = 2 := (ip_writers _).mp (by simp [jump, Action.written])
    rw [ip_of_runs (runs_of_two_bytes running two), handled_jump_ip jump]
    split
    · exact target_of_jump _
    · exact second

/-! ### The record of a halt -/

/-- The bytes that can halt tell a cause (R82). -/
theorem causeOfIR_isSome : ∀ op : Byte, (op.toNat = 0x00 ∨ 0x1F ≤ op.toNat) ∨ op = 0x15#8 ∨ op = 0x16#8 →
    (causeOfIR op).isSome = true := by decide

/-- The opcodes that write FLAGS write no memory (R24). -/
theorem memory_kept_of_flags : ∀ op : Byte, .flags ∈ (actionOf op).written →
    (actionOf op).writesMemory = false := by decide

/-- A tick keeps the record of a halt: one that halts leaves `IP` and memory as they are, and its opcode in `IR` (R82). -/
theorem haltRecord_of_step {s t : State} (record : HaltRecord s) (h : step s = .next t) : HaltRecord t := by
  obtain ⟨-, rfl⟩ | ⟨running, -⟩ := step_next_cases h
  · exact record
  have running := (ready_eq_true s).mpr running
  obtain rfl := eq_of_step running h
  intro stops
  have halts := stops
  rw [halted_advance] at halts
  have opcode := ((halted_handled_iff running).mp halts).imp_right And.left
  have memory : (handled s).mem = s.mem := apply_mem (memory_kept_of_flags _ (flags_written _ opcode)) ..
  rw [haltCause, if_pos stops, advance_handled_ir, advance_mem, memory, ip_of_halts running halts]
  exact ⟨causeOfIR_isSome _ opcode, rfl⟩

end Sys2Proof.Machine
end

section
/-! SUPPORT. The memory accesses of a tick, by action (40_execution_cycle.md R72), and their agreement with the step. -/

namespace Sys2Proof.Machine

/-- The writes of a sequence of pushes, each at the `SP` that the pushes before it leave (R100). -/
def pushAccesses : List Reg → State → List Access
  | [], _ => []
  | r :: rs, s => .write s.sp (readReg r s) :: pushAccesses rs (pushReg r s)

/-- The reads of a sequence of pops, each above the `SP` that the pops before it leave (R110). -/
def popAccesses : List Reg → State → List Access
  | [], _ => []
  | r :: rs, s => readAccess s (s.sp + 1#8) :: popAccesses rs (popReg r s)

namespace Action

/-- The accesses that go with `Action.apply`, started in the Fetched state `s` (R72). -/
def accesses (op : Byte) (s : State) : Action → List Access
  | halt | copy .. => []
  | immediate _ => [readAccess s (s.ip + 1#8)]
  | push rs => pushAccesses rs s
  | pop rs => popAccesses rs s
  | jump => jumpAccesses (jumpCondition op s) s

/-- The registers that the action pushes or pops. -/
def stacked : Action → List Reg
  | push rs | pop rs => rs
  | halt | immediate _ | copy .. | jump => []

end Action

/-! ### The accesses of a handler are those of its action -/

/-! The cells of a second and a third push or pop, as R72 writes them. -/

theorem sub_one_sub_one (a : Byte) : a - 1#8 - 1#8 = a - 2#8 := by bv_omega

theorem add_one_add_one (a : Byte) : a + 1#8 + 1#8 = a + 2#8 := BitVec.add_assoc ..

theorem add_two_add_one (a : Byte) : a + 2#8 + 1#8 = a + 3#8 := BitVec.add_assoc ..

/-- PUSH_ALL writes the three cells from `SP` down (R105). -/
theorem pushAccesses_all (s : State) : pushAccesses [.ax, .bx, .flags] s =
    [.write s.sp s.ax, .write (s.sp - 1#8) s.bx, .write (s.sp - 2#8) s.flags] := by
  rw [← sub_one_sub_one]
  rfl

/-- POP_REG reads the two cells above `SP`, lowest first (R113). -/
theorem popAccesses_reg (s : State) : popAccesses [.bx, .ax] s =
    [readAccess s (s.sp + 1#8), readAccess s (s.sp + 2#8)] := by
  rw [← add_one_add_one]
  rfl

/-- POP_ALL reads the three cells above `SP`, lowest first (R115). -/
theorem popAccesses_all (s : State) : popAccesses [.flags, .bx, .ax] s =
    [readAccess s (s.sp + 1#8), readAccess s (s.sp + 2#8), readAccess s (s.sp + 3#8)] := by
  rw [← add_two_add_one, ← add_one_add_one]
  rfl

/-- An unrecognised byte's handler makes no access (R81). -/
theorem handlerAccesses_decodeUnrecognised (op : Byte) (s : State) :
    handlerAccesses (decodeUnrecognised op) s = [] := by
  obtain ⟨row, -⟩ | row | row | row := decodeUnrecognised_cases op
  all_goals rw [row]; rfl

/-- R72's table and the actions are one account of the handlers' accesses. -/
theorem handlerAccesses_decodeInstr (op operand : Byte) (s : State) :
    handlerAccesses (decodeInstr op operand) s = (actionOf op).accesses op s := by
  induction op using opcode_cases with
  | defined n hn =>
    interval_cases n
    -- the goals of PUSH_ALL, POP_REG and POP_ALL, where R72 sums the steps of `SP`, and of JUMP_NEQU, where the
    -- comparator is `!=` and the condition of R129 is `≠`; all others are the same term on both sides
    on_goal 18 => exact (pushAccesses_all s).symm
    on_goal 20 => exact (popAccesses_reg s).symm
    on_goal 21 => exact (popAccesses_all s).symm
    on_goal 24 => exact congrArg (jumpAccesses · s) (cmpNotEqual_eq_decide s.ax s.bx)
    all_goals rfl
  | unrecognised op hop =>
    rw [decodeInstr_unrecognised op operand hop, handlerAccesses_decodeUnrecognised, actionOf_halt (.inr hop),
      Action.accesses]

/-- The accesses of a tick of a Running state, as an equation (R72). -/
theorem tickAccesses_running {s : State} (running : ready s = true) :
    tickAccesses s =
      .read s.ip (nextOpcode s) :: (actionOf (nextOpcode s)).accesses (nextOpcode s) (fetch s) := by
  rw [tickAccesses, (ready_eq_true s).mp running, decodedInstr_fetch, handlerAccesses_decodeInstr]
  rfl

/-! ### The accesses explain the step -/

/-- A read that returns what the cell holds leaves memory as it is. -/
theorem replay_read (s : State) (a : Byte) (rest : List Access) :
    replay (readAccess s a :: rest) s.mem = replay rest s.mem := if_pos rfl

theorem replay_pushAccesses (rs : List Reg) (s : State) :
    replay (pushAccesses rs s) s.mem = some (pushRegs rs s).mem := by
  induction rs generalizing s with
  | nil => rfl
  | cons r rs ih => exact ih (pushReg r s)

theorem replay_popAccesses (rs : List Reg) (s : State) :
    replay (popAccesses rs s) s.mem = some (popRegs rs s).mem := by
  induction rs generalizing s with
  | nil => rfl
  | cons r rs ih =>
    rw [popAccesses, replay_read, ← popReg_mem s r]
    exact ih (popReg r s)

theorem replay_jumpAccesses (c : Bool) (s : State) : replay (jumpAccesses c s) s.mem = some s.mem := by
  cases c with
  | true => exact replay_read s _ []
  | false => rfl

/-- The accesses of an action, replayed, leave the memory that the action leaves (R41, R72). -/
theorem replay_accesses (a : Action) (op operand : Byte) (s : State) :
    replay (a.accesses op s) s.mem = some (a.apply op operand s).mem := by
  cases a with
  | push rs => exact replay_pushAccesses rs s
  | pop rs => exact replay_popAccesses rs s
  | halt => rfl
  | copy dst src => rw [apply_mem rfl]; rfl
  | immediate dst => rw [apply_mem rfl]; exact replay_read s _ []
  | jump => rw [apply_mem rfl]; exact replay_jumpAccesses _ s

/-- Settles O44: the Fetch read finds the opcode, and then the handler's accesses leave its memory. -/
theorem accessesExplainTheTick : Obligations.AccessesExplainTheTick := by
  intro s t h
  obtain ⟨stopped, rfl⟩ | ⟨running, -⟩ := step_next_cases h
  · rw [tickAccesses, if_pos stopped, replay]
  · have running := (ready_eq_true s).mpr running
    obtain rfl := eq_of_step running h
    rw [tickAccesses_running running, advance_mem]
    exact (replay_read s s.ip _).trans (replay_accesses _ _ _ (fetch s))

/-! ### How many, and which -/

theorem length_pushAccesses (rs : List Reg) (s : State) : (pushAccesses rs s).length = rs.length := by
  induction rs generalizing s with
  | nil => rfl
  | cons r rs ih => exact congrArg (· + 1) (ih (pushReg r s))

theorem length_popAccesses (rs : List Reg) (s : State) : (popAccesses rs s).length = rs.length := by
  induction rs generalizing s with
  | nil => rfl
  | cons r rs ih => exact congrArg (· + 1) (ih (popReg r s))

/-- An action makes one access for each register it pushes or pops, and at most one otherwise (R72). -/
theorem length_accesses_le (a : Action) (op : Byte) (s : State) :
    (a.accesses op s).length ≤ max 1 a.stacked.length := by
  cases a with
  | push rs => exact (length_pushAccesses rs s).trans_le (le_max_right _ _)
  | pop rs => exact (length_popAccesses rs s).trans_le (le_max_right _ _)
  | jump => rw [Action.accesses, jumpAccesses]; split <;> simp
  | halt | immediate | copy => simp [Action.accesses]

/-- No instruction pushes or pops more than three registers (R105, R115). -/
theorem length_stacked_le : ∀ op : Byte, (actionOf op).stacked.length ≤ 3 := by decide

/-- Settles O45: the Fetch read, and at most three accesses of the handler. -/
theorem oneToFourAccesses : Obligations.OneToFourAccesses := by
  intro s running
  have handler : ((actionOf (nextOpcode s)).accesses (nextOpcode s) (fetch s)).length ≤ 3 :=
    (length_accesses_le ..).trans (max_le (by decide) (length_stacked_le _))
  rw [tickAccesses_running running]
  exact ⟨Nat.succ_le_succ (Nat.zero_le _), Nat.succ_le_succ handler, rfl⟩

/-- The opcodes that R72 lists as making no access but the Fetch read: HALT, the copies and the unrecognised bytes. -/
theorem accesses_eq_nil {op : Byte} (s : State)
    (h : op.toNat ∈ [0x00, 0x02, 0x03, 0x04, 0x06, 0x07, 0x08, 0x09, 0x0A, 0x0B, 0x0C] ∨ 0x1F ≤ op.toNat) :
    (actionOf op).accesses op s = [] := by
  obtain listed | unrecognised := h
  · unfold actionOf
    generalize op.toNat = n at listed
    fin_cases listed <;> rfl
  · rw [actionOf_halt (.inr unrecognised), Action.accesses]

/-- Settles O43: row by row, the accesses of the row's action. -/
theorem accessesInOrder : Obligations.AccessesInOrder := by
  intro s running
  rw [tickAccesses_running running]
  refine ⟨fun op => ?_, fun op => ?_, fun op => ?_, fun op => ?_, fun op => ?_, fun op => ?_, fun op => ?_,
    fun op => ?_, fun op => ?_, fun op => ?_, fun low high => ?_⟩
  · rw [accesses_eq_nil _ op]
  · have op : nextOpcode s = 0x01#8 ∨ nextOpcode s = 0x05#8 := by simpa [← BitVec.toNat_inj] using op
    rcases op with op | op <;> rw [op] <;> rfl
  · rw [op]; rfl
  · rw [op]; rfl
  · rw [op]; rfl
  · rw [op]; rfl
  · rw [op]; exact congrArg _ (pushAccesses_all (fetch s))
  · have op : nextOpcode s = 0x12#8 ∨ nextOpcode s = 0x13#8 ∨ nextOpcode s = 0x15#8 := by
      simpa [← BitVec.toNat_inj] using op
    rcases op with op | op | op <;> rw [op] <;> rfl
  · rw [op]; exact congrArg _ (popAccesses_reg (fetch s))
  · rw [op]; exact congrArg _ (popAccesses_all (fetch s))
  · rw [actionOf_jump low high]; rfl

end Sys2Proof.Machine
end

section
/-! SUPPORT. The host's operations (40_execution_cycle.md R75 to R78) and the pins that carry them (R79). -/

namespace Sys2Proof.Machine

/-! ### Loading bytes -/

/-- Of up to 256 bytes stored from `start` on, address `a` holds the one as far from the first as `a` is from `start`,
modulo 256; past the last it keeps what it held (R76). -/
theorem memRead_loadBytes {img : List Byte} (short : img.length ≤ 256) (start : Byte) (m : Memory) (a : Byte) :
    memRead (loadBytes start img m) a = img.getD (a - start).toNat (memRead m a) := by
  induction img generalizing start m with
  | nil => rfl
  | cons b img ih =>
    rw [List.length_cons] at short
    rw [loadBytes, ih (by omega), memRead_memWrite]
    by_cases here : a = start
    · subst here
      have last : (a - (a + 1#8)).toNat = 255 := by bv_omega
      have past : img.length ≤ 255 := by omega
      rw [if_pos rfl, last, List.getD_eq_default _ _ past, sub_self]
      rfl
    · have next : (a - start).toNat = (a - (start + 1#8)).toNat + 1 := by bv_omega
      rw [if_neg here, next, List.getD_cons_succ]

/-- LoadImage of at most 256 bytes stores them and is not refused (R76). -/
theorem loadImage_of_le {img : List Byte} (short : img.length ≤ 256) (s : State) :
    loadImage img s = some (s.setMem (loadBytes 0x00#8 img s.mem)) := if_pos short

/-- A longer sequence is refused (R76). -/
theorem loadImage_of_lt {img : List Byte} (long : 256 < img.length) (s : State) : loadImage img s = none :=
  if_neg (Nat.not_le.mpr long)

/-- LoadImage stores bytes and does nothing else, or is refused (R76). -/
theorem eq_of_loadImage {img : List Byte} {s t : State} (loaded : loadImage img s = some t) :
    t = s.setMem (loadBytes 0x00#8 img s.mem) := by
  obtain short | long := le_or_gt img.length 256
  · rw [loadImage_of_le short] at loaded
    exact (Option.some.inj loaded).symm
  · rw [loadImage_of_lt long] at loaded
    cases loaded

/-- What a cell holds after LoadImage (R76). -/
theorem memRead_loadImage {img : List Byte} (short : img.length ≤ 256) (m : Memory) (a : Byte) :
    memRead (loadBytes 0x00#8 img m) a = img.getD a.toNat (memRead m a) := by
  rw [memRead_loadBytes short, BitVec.sub_zero]

/-- Settles O9: on the memory of Reset, a cell past the image keeps zero. -/
theorem loadImageFillsFromZero : Obligations.LoadImageFillsFromZero :=
  ⟨fun _ short => ⟨_, loadImage_of_le short _, rfl, memRead_loadImage short []⟩,
    fun _ s long => loadImage_of_lt long s⟩

/-! ### The host's operations -/

/-- A tick that the host asks for is one step (R78). -/
theorem hostStep_tick {h : Session} {t : State} (stepped : step h.block = .next t) :
    hostStep .tick h = some (⟨t, true⟩, .nothing) := by
  rw [hostStep, stepped]

/-- The operation LoadImage, before the first tick (R75, R76). -/
theorem hostStep_loadImage {h : Session} (untouched : h.ticked = false) (img : List Byte) :
    hostStep (.loadImage img) h =
      (loadImage img h.block).map fun s => ({ h with block := s }, .nothing) := by
  rw [hostStep, untouched]
  cases loadImage img h.block <;> rfl

/-- After the first tick LoadImage is not allowed (R75). -/
theorem hostStep_loadImage_ticked {h : Session} (ticked : h.ticked = true) (img : List Byte) :
    hostStep (.loadImage img) h = none := if_pos ticked

/-- Settles O52, operation by operation. -/
theorem hostOperations : Obligations.HostOperations := by
  intro h
  refine ⟨⟨Session.start, rfl, rfl, rfl, memRead_nil⟩, fun img refused => ?_, fun img untouched short => ?_, rfl, rfl,
    fun a => rfl, ?_⟩
  · obtain ticked | long := refused
    · exact hostStep_loadImage_ticked ticked img
    · rw [hostStep, loadImage_of_lt long, ite_self]
  · rw [hostStep_loadImage untouched, loadImage_of_le short]
    exact ⟨_, rfl, untouched, rfl, memRead_loadImage short h.block.mem⟩
  · obtain ⟨t, stepped⟩ := exists_step h.block
    exact ⟨t, stepped, hostStep_tick stepped⟩

/-- What O51 says of a session. -/
structure Session.Sound (h : Session) : Prop where
  canonical : State.wf h.block = true
  record : HaltRecord h.block
  zero : h.ticked = false → h.block = State.reset.setMem h.block.mem

/-- A Running state has no halt to record (R82). -/
theorem haltRecord_of_running {s : State} (running : halted s = false) : HaltRecord s :=
  fun stopped => absurd (running.symm.trans stopped) Bool.false_ne_true

/-- With the registers of Reset the Processor is Running (R156). -/
theorem haltRecord_of_reset (m : Memory) : HaltRecord (State.reset.setMem m) :=
  have running : halted State.reset = false := by decide
  haltRecord_of_running running

theorem Session.sound_start : Session.start.Sound := ⟨reset_mem_wf, haltRecord_of_reset [], fun _ => rfl⟩

/-- Before the first tick LoadImage writes memory only; after it, it is not allowed (R75, R76). -/
theorem Session.Sound.afterLoadImage {h h' : Session} {img : List Byte} {r : HostReply} (sound : h.Sound)
    (done : hostStep (.loadImage img) h = some (h', r)) : h'.Sound := by
  cases ticked : h.ticked with
  | true => rw [hostStep_loadImage_ticked ticked] at done; cases done
  | false =>
    rw [hostStep_loadImage ticked] at done
    obtain ⟨t, loaded, same⟩ := Option.map_eq_some_iff.mp done
    obtain ⟨rfl, -⟩ := Prod.mk.inj same
    obtain rfl := eq_of_loadImage loaded
    have zero : h.block = State.reset.setMem h.block.mem := sound.zero ticked
    have block : h.block.setMem (loadBytes 0x00#8 img h.block.mem) =
        State.reset.setMem (loadBytes 0x00#8 img h.block.mem) := by rw [zero]; rfl
    refine ⟨loadBytes_wf img _ _ sound.canonical, ?_, fun _ => block⟩
    show HaltRecord (h.block.setMem _)
    rw [block]
    exact haltRecord_of_reset _

/-- Every operation of the host keeps a session sound (R75). -/
theorem Session.Sound.afterOp {h h' : Session} {o : HostOp} {r : HostReply} (sound : h.Sound)
    (done : hostStep o h = some (h', r)) : h'.Sound := by
  cases o with
  | reset => cases done; exact Session.sound_start
  | loadImage img => exact sound.afterLoadImage done
  | tick =>
    obtain ⟨t, stepped⟩ := exists_step h.block
    rw [hostStep_tick stepped] at done
    cases done
    exact ⟨stepKeepsCanonicalMemory _ _ sound.canonical stepped, haltRecord_of_step sound.record stepped,
      fun untouched => Bool.noConfusion untouched⟩
  | ready | snapshot | readCell => cases done; exact sound

/-- Settles O51, by induction on the host's operations. -/
theorem hostCannotBreakTheBlock : Obligations.HostCannotBreakTheBlock := by
  intro h reachable
  have sound : h.Sound := by
    induction reachable with
    | start => exact Session.sound_start
    | op o h h' r before done sound => exact sound.afterOp done
  exact ⟨sound.canonical, sound.record, sound.zero⟩

/-! ### The pins -/

/-- A load pulse before the first tick loads its cell (R79). -/
theorem pinLoad_of_acts {p : PinsIn} {h : Session} (acts : loadActs p h = true) :
    pinLoad p h = { h with block := store p.loadAddr p.loadData h.block } := if_pos acts

/-- Load pulses at `start`, `start + 1`, … store their bytes there (R79). -/
theorem foldl_pinLoad (img : List Byte) (start : Nat) {h : Session} (untouched : h.ticked = false) :
    (img.zipIdx start).foldl
        (fun h b => pinLoad ⟨false, true, BitVec.ofNat 8 b.2, b.1, false, 0x00#8⟩ h) h =
      { h with block := h.block.setMem (loadBytes (BitVec.ofNat 8 start) img h.block.mem) } := by
  induction img generalizing start h with
  | nil => rfl
  | cons b img ih =>
    have acts : loadActs ⟨false, true, BitVec.ofNat 8 start, b, false, 0x00#8⟩ h = true := by
      rw [loadActs, untouched]; rfl
    rw [List.zipIdx_cons, List.foldl_cons, pinLoad_of_acts acts, ih (start + 1) (by exact untouched), BitVec.ofNat_add]
    rfl

/-- Settles O53: the pulses and LoadImage store the same bytes in the same cells. -/
theorem loadPulsesMakeAnImage : Obligations.LoadPulsesMakeAnImage := by
  intro img h s untouched loaded
  rw [foldl_pinLoad img 0 untouched, eq_of_loadImage loaded]

section
variable {p : PinsIn} {h : Session}

/-- After the first tick the load pins do not act (R79). -/
theorem loadActs_of_ticked (ticked : h.ticked = true) : loadActs p h = false := by
  rw [loadActs, ticked, Bool.not_true, Bool.and_false]

/-- While `ready` is low the `tick` pin does not act (R79). -/
theorem tickActs_of_halted (stopped : halted h.block = true) : tickActs p h = false := by
  rw [tickActs, ready, stopped, Bool.not_true, Bool.and_false]

theorem loadActs_of_high (high : p.loadEn = true) (untouched : h.ticked = false) : loadActs p h = true := by
  rw [loadActs, high, untouched]; rfl

theorem tickActs_of_high (high : p.tick = true) (running : halted h.block = false) : tickActs p h = true := by
  rw [tickActs, high, ready, running]; rfl

/-- Where neither `reset` nor the load pins act, what happens is what the `tick` pin does, nothing included (R79). -/
theorem pinCycle_eq_pinTick (noReset : p.reset = false) (noLoad : loadActs p h = false) :
    pinCycle p h = pinTick p h := by
  rw [pinCycle, noReset, noLoad, pinTick]
  cases tickActs p h <;> rfl

/-- Where neither `reset` nor the `tick` pin acts, what happens is what the load pins do, nothing included (R79). -/
theorem pinCycle_eq_pinLoad (noReset : p.reset = false) (noTick : tickActs p h = false) :
    pinCycle p h = some (pinLoad p h) := by
  rw [pinCycle, noReset, noTick, pinLoad]
  cases loadActs p h <;> rfl

/-- A load and a tick that would both act are refused (log entry 10). -/
theorem pinCycle_load_tick (noReset : p.reset = false) (load : loadActs p h = true) (tick : tickActs p h = true) :
    pinCycle p h = none := by
  rw [pinCycle, noReset, load, tick]

/-- `reset` beside requests without an effect is Reset (R75, R79). -/
theorem pinCycle_reset (reset : p.reset = true) (noLoad : loadActs p h = false) (noTick : tickActs p h = false) :
    pinCycle p h = some Session.start := by
  rw [pinCycle, reset, noLoad, noTick]

/-- `reset` beside a request that would act is refused (log entry 10). -/
theorem pinCycle_reset_beside (reset : p.reset = true) (acts : loadActs p h = true ∨ tickActs p h = true) :
    pinCycle p h = none := by
  rw [pinCycle, reset]
  obtain load | tick := acts
  · rw [load]
  · rw [tick]; cases loadActs p h <;> rfl

end

/-- Settles O54, by which of the pins act. -/
theorem pinsCarryHostOperations : Obligations.PinsCarryHostOperations := by
  intro h addr data dbg
  refine ⟨rfl, rfl, fun ticked => ?_, fun untouched => ?_, fun stopped => ?_, fun running => ?_, fun ticked => ?_,
    fun untouched stopped => ?_, fun untouched running => ?_, fun load tick noLoad noTick => ?_,
    fun load tick acts => ?_⟩
  · exact pinCycle_eq_pinTick rfl (loadActs_of_ticked ticked)
  · rw [pinCycle_eq_pinLoad rfl rfl, pinLoad_of_acts (loadActs_of_high rfl untouched)]
    exact ⟨_, rfl, rfl, memRead_store h.block data addr⟩
  · exact pinCycle_eq_pinLoad rfl (tickActs_of_halted stopped)
  · obtain ⟨t, stepped⟩ := exists_step h.block
    refine ⟨t, stepped, ?_⟩
    rw [pinCycle_eq_pinTick rfl rfl, pinTick, if_pos (tickActs_of_high rfl running), hostStep_tick stepped]
    rfl
  · rw [pinCycle_eq_pinTick rfl (loadActs_of_ticked ticked), pinCycle_eq_pinTick rfl rfl]
    rfl
  · rw [pinCycle_eq_pinLoad rfl (tickActs_of_halted stopped), pinCycle_eq_pinLoad rfl rfl]
    rfl
  · exact pinCycle_load_tick rfl (loadActs_of_high rfl untouched) (tickActs_of_high rfl running)
  · refine pinCycle_reset rfl ?_ ?_
    · cases load with
      | true => exact loadActs_of_ticked (noLoad rfl)
      | false => rfl
    · cases tick with
      | true => exact tickActs_of_halted (noTick rfl)
      | false => rfl
  · refine pinCycle_reset_beside rfl ?_
    exact acts.imp (fun ⟨high, untouched⟩ => loadActs_of_high high untouched)
      fun ⟨high, running⟩ => tickActs_of_high high running

end Sys2Proof.Machine
end

section
/-! SUPPORT. The halts (41_halt.md): what `Halt()` writes, the tick of HALT and of an unrecognised byte, and what a Halted
state of a run tells (R82). -/

namespace Sys2Proof.Machine

/-- Settles O48, by the step lemma of the record. -/
theorem stepKeepsHaltRecord : Obligations.StepKeepsHaltRecord := fun _ _ => haltRecord_of_step

/-- Settles O49: LoadImage leaves the registers of Reset, with which the Processor is Running. -/
theorem haltRecordAtStart : Obligations.HaltRecordAtStart := by
  refine ⟨haltRecord_of_reset [], fun img s loaded => ?_⟩
  obtain rfl := eq_of_loadImage loaded
  have running : ready State.reset = true := by decide
  exact ⟨haltRecord_of_reset _, running⟩

/-! ### HALT and the unrecognised bytes -/

/-- `Halt()` is bit 0 of FLAGS set, with the mask written out (R80). -/
theorem haltProcessor_eq_mask (s : State) : haltProcessor s = { s with flags := s.flags ||| 0x01#8 } := rfl

/-- Settles O14: each of the five handlers is `Halt()`. -/
theorem haltHandlersSetOneBit : Obligations.HaltHandlersSetOneBit := by
  intro s op
  rw [← haltProcessor_eq_mask]
  exact ⟨rfl, rfl, rfl, rfl, rfl⟩

/-- The tick of HALT and of every unrecognised byte: Advance does not move `IP` (R80, R81). -/
theorem step_halt {s : State} (running : ready s = true)
    (halts : (nextOpcode s).toNat = 0x00 ∨ 0x1F ≤ (nextOpcode s).toNat) :
    step s = .next { s with ir := nextOpcode s, flags := s.flags ||| 0x01#8 } := by
  rw [step_running running, handled_halt halts, advance, if_pos (halted_haltProcessor _), haltProcessor_eq_mask]
  rfl

/-- HALT and the unrecognised bytes make no access but the Fetch (R80, R81). -/
theorem tickAccesses_halt {s : State} (running : ready s = true)
    (halts : (nextOpcode s).toNat = 0x00 ∨ 0x1F ≤ (nextOpcode s).toNat) :
    tickAccesses s = [.read s.ip (nextOpcode s)] := by
  rw [tickAccesses_running running, actionOf_halt halts, Action.accesses]

/-- Settles O20: the tick that `step_halt` gives, with the opcode byte 0x00. -/
theorem haltTick : Obligations.HaltTick := by
  intro s running op
  have halts : (nextOpcode s).toNat = 0x00 ∨ 0x1F ≤ (nextOpcode s).toNat := .inl (by rw [op]; rfl)
  have stopped : halted { s with ir := 0x00#8, flags := s.flags ||| 0x01#8 } = true :=
    halted_haltProcessor (s.setIR 0x00#8)
  exact ⟨op ▸ step_halt running halts, by rw [ready, stopped]; rfl, op ▸ tickAccesses_halt running halts⟩

/-- Settles O21: the tick that `step_halt` gives, with any byte from 0x1F on. -/
theorem unrecognisedTick : Obligations.UnrecognisedTick :=
  fun _ running high => ⟨step_halt running (.inr high), tickAccesses_halt running (.inr high)⟩

/-! ### The Halted state of a run -/

/-- The four causes that a byte in `IR` can tell, each with the bytes that tell it (R82). -/
theorem causeOfIR_cases : ∀ ir : Byte, (causeOfIR ir).isSome = true →
    (ir = 0x00#8 ∧ causeOfIR ir = some .haltInstruction) ∨ (ir = 0x15#8 ∧ causeOfIR ir = some .popFLAG) ∨
      (ir = 0x16#8 ∧ causeOfIR ir = some .popALL) ∨
      (0x1F ≤ ir.toNat ∧ causeOfIR ir = some (.unrecognised ir)) := by decide

/-- A run is Running at its start and a Halted tick changes nothing, so the Halted state of a run was left by a tick of a
Running state of the same run (R67, R156). -/
theorem Reachable.exists_halting_tick {s : State} (reachable : Reachable s) (stopped : halted s = true) :
    ∃ p, Reachable p ∧ ready p = true ∧ step p = .next s := by
  induction reachable with
  | start img s loaded =>
    obtain ⟨-, running⟩ := haltRecordAtStart.2 img s loaded
    exact absurd (stopped.symm.trans ((ready_eq_true s).mp running)) Bool.noConfusion
  | tick s t before ticked ih =>
    obtain ⟨already, rfl⟩ | ⟨running, -⟩ := step_next_cases ticked
    · exact ih already
    · exact ⟨s, before, (ready_eq_true s).mpr running, ticked⟩

/-- A tick that halts leaves `IP` at its instruction and the opcode it fetched there in `IR` (R82). -/
theorem ip_ir_of_halting_tick {p s : State} (running : ready p = true) (ticked : step p = .next s)
    (stopped : halted s = true) : p.ip = s.ip ∧ nextOpcode p = s.ir := by
  obtain rfl := eq_of_step running ticked
  exact ⟨(ip_of_halts running (halted_advance _ ▸ stopped)).symm, (advance_handled_ir p).symm⟩

/-- Settles O50: the record holds after the tick that halted, because it says nothing of the Running state before. -/
theorem haltedRunTellsItsCause : Obligations.HaltedRunTellsItsCause := by
  intro s reachable notReady
  have stopped : halted s = true := by simpa [ready] using notReady
  obtain ⟨p, reached, running, ticked⟩ := reachable.exists_halting_tick stopped
  have record : HaltRecord s := haltRecord_of_step (haltRecord_of_running ((ready_eq_true p).mp running)) ticked
  obtain ⟨told, opcode⟩ := record stopped
  rw [haltCause, if_pos stopped] at told ⊢
  exact ⟨causeOfIR_cases _ told, opcode, p, reached, running, ticked, ip_ir_of_halting_tick running ticked stopped⟩

end Sys2Proof.Machine
end

section
/-! SUPPORT. The loads and copies (42_load.md): their handlers, and the tick of an opcode that leaves FLAGS alone. -/

namespace Sys2Proof.Machine

/-- Settles O15: the handlers are `loadImmediate` and `copyReg` at the registers each mnemonic names, both writes of one
register. -/
theorem loadHandlersWriteDestination : Obligations.LoadHandlersWriteDestination :=
  fun _ _ => ⟨rfl, rfl, rfl, rfl, rfl, rfl, rfl, rfl, rfl, rfl, rfl, rfl⟩

section
variable {s : State} {op : Byte} {dst src : Reg}

/-- Where the action does not write FLAGS the Processor stays Running, so Advance moves `IP` on (R70). -/
theorem step_of_flags_kept (running : ready s = true) (opcode : nextOpcode s = op)
    (kept : .flags ∉ (actionOf op).written) :
    step s = .next (incIP ((actionOf op).apply op (nextOperand s) (s.setIR op))) := by
  subst opcode
  rw [step_running running, advance, running_of_flags_kept running kept]
  rfl

/-- The tick of a copy between registers (R85). -/
theorem step_copy (running : ready s = true) (opcode : nextOpcode s = op) (copies : actionOf op = .copy dst src)
    (noFlags : .flags ≠ dst) : step s = .next (incIP (copyReg dst src (s.setIR op))) := by
  have kept : .flags ∉ (actionOf op).written := by simpa [copies, Action.written] using noFlags
  rw [step_of_flags_kept running opcode kept, copies, Action.apply]

/-- The tick of an immediate load, whose handler has moved `IP` to the operand byte (R53, R85). -/
theorem step_immediate (running : ready s = true) (opcode : nextOpcode s = op)
    (immediate : actionOf op = .immediate dst) (noFlags : .flags ≠ dst) :
    step s = .next (incIP (loadImmediate dst (nextOperand s) (s.setIR op))) := by
  have kept : .flags ∉ (actionOf op).written := by simpa [immediate, Action.written] using noFlags
  rw [step_of_flags_kept running opcode kept, immediate, Action.apply]

end

/-- Settles O22: `IP` moves one on to the operand byte, and one on past it. -/
theorem loadImmediateTick : Obligations.LoadImmediateTick := by
  intro s running
  rw [← add_one_add_one]
  exact ⟨fun op => step_immediate (dst := .ax) running op rfl (by decide),
    fun op => step_immediate (dst := .bx) running op rfl (by decide)⟩

/-- Settles O23: the three copies to AX. -/
theorem copyToAXTick : Obligations.CopyToAXTick := fun _ running =>
  ⟨fun op => step_copy (dst := .ax) (src := .bx) running op rfl (by decide),
    fun op => step_copy (dst := .ax) (src := .sp) running op rfl (by decide),
    fun op => step_copy (dst := .ax) (src := .bp) running op rfl (by decide)⟩

/-- Settles O24: the three copies to BX. -/
theorem copyToBXTick : Obligations.CopyToBXTick := fun _ running =>
  ⟨fun op => step_copy (dst := .bx) (src := .ax) running op rfl (by decide),
    fun op => step_copy (dst := .bx) (src := .sp) running op rfl (by decide),
    fun op => step_copy (dst := .bx) (src := .bp) running op rfl (by decide)⟩

/-- Settles O25: the two copies to SP and the two to BP. -/
theorem copyToPointerTick : Obligations.CopyToPointerTick := fun _ running =>
  ⟨fun op => step_copy (dst := .sp) (src := .ax) running op rfl (by decide),
    fun op => step_copy (dst := .sp) (src := .bx) running op rfl (by decide),
    fun op => step_copy (dst := .bp) (src := .ax) running op rfl (by decide),
    fun op => step_copy (dst := .bp) (src := .bx) running op rfl (by decide)⟩

end Sys2Proof.Machine
end

section
/-! SUPPORT. The pushes (43_push.md): their handlers, their ticks, and the stack that any pushes leave. -/

namespace Sys2Proof.Machine

/-- Settles O41: the pushes leave `SP` one below the last cell they write, and 255 of them do not come round to it. -/
theorem stackAsPushesLeaveIt : Obligations.StackAsPushesLeaveIt := by
  rintro s t vs short (rfl : _ = pushBytes vs s)
  have sp : (pushBytes vs s).sp = s.sp - BitVec.ofNat 8 vs.length := congrArg State.sp (pushBytes_eq vs s)
  have unwritten : ∀ k < vs.length, (pushBytes vs s).sp ≠ s.sp - BitVec.ofNat 8 k := by
    intro k hk
    rw [sp]
    bv_omega
  refine ⟨pushBytes_eq vs s, fun k hk => ?_, fun a => memRead_pushBytes_of_ne, memRead_pushBytes_of_ne unwritten⟩
  exact memRead_pushBytes (short.trans (by decide)) (by simp [hk])

section
variable (u v w : Byte) (s : State)

/-- The first of at most 256 bytes pushed is in cell `S` (R106). -/
theorem memRead_pushBytes_first {vs : List Byte} (short : vs.length ≤ 255) :
    memRead (pushBytes (v :: vs) s).mem s.sp = v := by
  simpa using memRead_pushBytes (vs := v :: vs) (Nat.succ_le_succ short) (s := s) (k := 0) rfl

/-- Two pushed bytes lie in the cells `S` and `S - 1`, and no other cell changes (R106). -/
theorem memRead_pushBytes_pair :
    memRead (pushBytes [u, v] s).mem s.sp = u ∧ memRead (pushBytes [u, v] s).mem (s.sp - 1#8) = v ∧
      ∀ a : Byte, a ≠ s.sp → a ≠ s.sp - 1#8 → memRead (pushBytes [u, v] s).mem a = memRead s.mem a := by
  refine ⟨memRead_pushBytes_first u s (by simp), memRead_pushBytes (by simp) (k := 1) rfl,
    fun a first second => memRead_pushBytes_of_ne fun k hk => ?_⟩
  match k with
  | 0 => simpa using first
  | 1 => exact second

/-- Three pushed bytes lie in the cells `S`, `S - 1` and `S - 2`, and no other cell changes (R106). -/
theorem memRead_pushBytes_triple :
    memRead (pushBytes [u, v, w] s).mem s.sp = u ∧ memRead (pushBytes [u, v, w] s).mem (s.sp - 1#8) = v ∧
      memRead (pushBytes [u, v, w] s).mem (s.sp - 2#8) = w ∧
      ∀ a : Byte, a ≠ s.sp → a ≠ s.sp - 1#8 → a ≠ s.sp - 2#8 →
        memRead (pushBytes [u, v, w] s).mem a = memRead s.mem a := by
  refine ⟨memRead_pushBytes_first u s (by simp), memRead_pushBytes (by simp) (k := 1) rfl,
    memRead_pushBytes (by simp) (k := 2) rfl, fun a first second third => memRead_pushBytes_of_ne fun k hk => ?_⟩
  match k with
  | 0 => simpa using first
  | 1 => exact second
  | 2 => exact third

end

/-- Settles O16: each of the three handlers is one `Push` (R100). -/
theorem pushOneHandlersStoreAtSP : Obligations.PushOneHandlersStoreAtSP := fun s =>
  ⟨⟨push s.ax s, rfl, rfl, memRead_push s s.ax⟩, ⟨push s.bx s, rfl, rfl, memRead_push s s.bx⟩,
    ⟨push s.flags s, rfl, rfl, memRead_push s s.flags⟩⟩

/-- Settles O17: the two handlers are two and three pushes, AX first (R103, R105). -/
theorem pushManyHandlersStoreDownwards : Obligations.PushManyHandlersStoreDownwards := fun s =>
  ⟨⟨pushBytes [s.ax, s.bx] s, rfl, pushBytes_eq _ s, memRead_pushBytes_pair s.ax s.bx s⟩,
    ⟨pushBytes [s.ax, s.bx, s.flags] s, rfl, pushBytes_eq _ s, memRead_pushBytes_triple s.ax s.bx s.flags s⟩⟩

/-- The tick of a push, which leaves FLAGS alone, so that Advance moves `IP` on (R101 to R105). -/
theorem step_pushRegs {s : State} {op : Byte} {rs : List Reg} (running : ready s = true) (opcode : nextOpcode s = op)
    (pushes : actionOf op = .push rs) : step s = .next (incIP (pushRegs rs (s.setIR op))) := by
  have kept : .flags ∉ (actionOf op).written := by simp [pushes, Action.written]
  rw [step_of_flags_kept running opcode kept, pushes, Action.apply]

/-- Settles O26: the tick is one `Push` between Fetch and Advance, which leave memory alone. -/
theorem pushOneTick : Obligations.PushOneTick := by
  intro s running
  refine ⟨fun op => ⟨_, step_pushRegs (rs := [.ax]) running op rfl, rfl, memRead_push (s.setIR 0x0D#8) s.ax⟩,
    fun op => ⟨_, step_pushRegs (rs := [.bx]) running op rfl, rfl, memRead_push (s.setIR 0x0E#8) s.bx⟩,
    fun op => ⟨_, step_pushRegs (rs := [.flags]) running op rfl, rfl, ?_, memRead_push (s.setIR 0x10#8) s.flags⟩⟩
  exact (ready_eq_true s).mp running

/-- Settles O27: the tick is two or three pushes between Fetch and Advance, which leave memory alone. -/
theorem pushManyTick : Obligations.PushManyTick := by
  intro s running
  refine ⟨fun op => ⟨_, step_pushRegs (rs := [.ax, .bx]) running op rfl, ?_, ?_⟩,
    fun op => ⟨_, step_pushRegs (rs := [.ax, .bx, .flags]) running op rfl, ?_, ?_⟩⟩
  · exact congrArg incIP (pushBytes_eq [s.ax, s.bx] (s.setIR 0x0F#8))
  · exact memRead_pushBytes_pair s.ax s.bx (s.setIR 0x0F#8)
  · exact congrArg incIP (pushBytes_eq [s.ax, s.bx, s.flags] (s.setIR 0x11#8))
  · obtain ⟨first, second, third, others⟩ := memRead_pushBytes_triple s.ax s.bx s.flags (s.setIR 0x11#8)
    exact ⟨first, second, third, (ready_eq_true s).mp running, others⟩

end Sys2Proof.Machine
end

section
/-! SUPPORT. The pops (44_pop.md): their handlers, their ticks, the halt by a FLAGS pop, and a push undone by its pop. -/

namespace Sys2Proof.Machine

/-- Settles O18: the handlers are one, two and three pops, each from the cell above the one before it (R110). -/
theorem popHandlersLoadUpwards : Obligations.PopHandlersLoadUpwards := by
  intro s
  rw [← add_two_add_one, ← add_one_add_one]
  exact ⟨rfl, rfl, rfl, rfl, rfl⟩

/-! ### The tick of a pop -/

section
variable {s : State} {op : Byte} {rs : List Reg}

/-- The tick of a pop, whose Advance goes by the FLAGS that it leaves (R70, R111 to R115). -/
theorem step_popRegs (running : ready s = true) (opcode : nextOpcode s = op) (pops : actionOf op = .pop rs) :
    step s = .next (advance (popRegs rs (s.setIR op))) := by
  subst opcode
  rw [step_running running, handled, pops]
  rfl

/-- The tick of a pop that leaves FLAGS alone, so that Advance moves `IP` on (R111 to R113). -/
theorem step_popRegs_of_noFlags (running : ready s = true) (opcode : nextOpcode s = op)
    (pops : actionOf op = .pop rs) (noFlags : .flags ∉ rs) : step s = .next (incIP (popRegs rs (s.setIR op))) := by
  have kept : .flags ∉ (actionOf op).written := by simpa [pops, Action.written] using noFlags
  rw [step_of_flags_kept running opcode kept, pops, Action.apply]

end

/-- Settles O28: one or two pops between Fetch and Advance. -/
theorem popRegisterTick : Obligations.PopRegisterTick := by
  intro s running
  rw [← add_one_add_one]
  exact ⟨fun op => step_popRegs_of_noFlags (rs := [.ax]) running op rfl (by decide),
    fun op => step_popRegs_of_noFlags (rs := [.bx]) running op rfl (by decide),
    fun op => step_popRegs_of_noFlags (rs := [.bx, .ax]) running op rfl (by decide)⟩

/-- Settles O29: the HALT bit that Advance looks at is bit 0 of the byte popped. -/
theorem popFlagsTick : Obligations.PopFlagsTick := by
  intro s running
  rw [← add_two_add_one, ← add_one_add_one]
  refine ⟨fun op => ?_, fun op => ?_⟩
  · rw [step_popRegs (rs := [.flags]) running op rfl, advance_eq]
    rfl
  · rw [step_popRegs (rs := [.flags, .bx, .ax]) running op rfl, advance_eq]
    rfl

/-- Settles O30: the tick of O29 with an odd byte in FLAGS, which is the HALT bit set. -/
theorem flagsPopHalts : Obligations.FlagsPopHalts := by
  intro s running odd opcode
  obtain ⟨flag, all⟩ := popFlagsTick s running
  rw [if_pos odd] at flag all
  rcases opcode with op | op <;> rw [op]
  · exact ⟨_, flag op, congrArg not odd, rfl, rfl, rfl, fun _ => ⟨rfl, if_pos odd⟩, fun h => absurd h (by decide)⟩
  · exact ⟨_, all op, congrArg not odd, rfl, rfl, rfl, fun h => absurd h (by decide),
      fun _ => ⟨rfl, rfl, rfl, if_pos odd⟩⟩

/-! ### A push and its mirror pop -/

/-- A pop from below a cell that holds the register's own byte moves `SP` up to the cell and leaves the register as it
is (R110). -/
theorem popReg_of_stored {r : Reg} {s : State} {m : Memory} (stored : memRead m s.sp = readReg r s) :
    popReg r { s with sp := s.sp - 1#8, mem := m } = { s with mem := m } := by
  have top : s.sp - 1#8 + 1#8 = s.sp := BitVec.sub_add_cancel ..
  simp only [popReg, top, stored]
  cases r <;> rfl

/-- A write of another register leaves the listed ones as they are (R10). -/
theorem map_readReg_writeReg {q : Reg} {rs : List Reg} (h : q ∉ rs) (v : Byte) (s : State) :
    rs.map (readReg · (writeReg q v s)) = rs.map (readReg · s) :=
  List.map_congr_left fun _ hr => readReg_writeReg_of_ne (ne_of_mem_of_not_mem hr h) v s

/-- Pops in the reverse order, from below cells that hold the registers' own bytes downwards, move `SP` up past the cells
and leave the registers as they are, wherever the stack wraps (R116). -/
theorem popRegs_reverse_of_stored {rs : List Reg} (noSP : .sp ∉ rs) {s : State} {m : Memory}
    (stored : ∀ k v, (rs.map (readReg · s))[k]? = some v → memRead m (s.sp - BitVec.ofNat 8 k) = v) :
    popRegs rs.reverse { s with sp := s.sp - BitVec.ofNat 8 rs.length, mem := m } = { s with mem := m } := by
  induction rs generalizing s with
  | nil => simp [popRegs]
  | cons r rs ih =>
    obtain ⟨-, noSP⟩ := List.ne_and_not_mem_of_not_mem_cons noSP
    have below : ∀ k v, (rs.map (readReg · (s.setSP (s.sp - 1#8))))[k]? = some v →
        memRead m (s.sp - 1#8 - BitVec.ofNat 8 k) = v := by
      intro k v pushed
      rw [← writeReg_sp, map_readReg_writeReg noSP] at pushed
      rw [← sub_ofNat_succ]
      exact stored (k + 1) v pushed
    calc popRegs (r :: rs).reverse { s with sp := s.sp - BitVec.ofNat 8 (rs.length + 1), mem := m }
      _ = popReg r (popRegs rs.reverse { s with sp := s.sp - 1#8 - BitVec.ofNat 8 rs.length, mem := m }) := by
        rw [sub_ofNat_succ, List.reverse_cons, popRegs, List.foldl_append]
        rfl
      _ = popReg r { s with sp := s.sp - 1#8, mem := m } := congrArg (popReg r) (ih noSP below)
      _ = { s with mem := m } := popReg_of_stored (by simpa using stored 0 (readReg r s) rfl)

/-- The bytes that the tick of a push stores are those of its action's registers (R101 to R105). -/
theorem step_eq_afterPush {s : State} {rs : List Reg} (running : ready s = true)
    (pushes : actionOf (nextOpcode s) = .push rs) :
    step s = .next (afterPush s) ∧ pushedBytes s = rs.map (readReg · s) := by
  have op := memory_writers (nextOpcode s) (by rw [pushes]; rfl)
  simp only [List.mem_cons, List.not_mem_nil, or_false] at op
  refine ⟨step_push running (by omega) (by omega), ?_⟩
  unfold actionOf at pushes
  unfold pushedBytes
  rcases op with op | op | op | op | op
  all_goals
    rw [op] at pushes ⊢
    cases pushes
    rfl

/-- A push and its mirror pop leave every register but `IP` and `IR` as it was, and memory as the push leaves it, with
the `k`-th register's byte in cell `S - k` (R116). -/
theorem restored_of_push_pop {s t u : State} {p q : Byte} {rs : List Reg} (running : ready s = true)
    (pushed : step s = .next t) (popped : step t = .next u) (opcode : nextOpcode s = p) (opcode' : nextOpcode t = q)
    (pushes : actionOf p = .push rs) (pops : actionOf q = .pop rs.reverse)
    (plain : .sp ∉ rs ∧ .ip ∉ rs ∧ .ir ∉ rs) :
    u = { s with ip := s.ip + 2#8, ir := q, mem := t.mem } ∧
      ∀ k v, (rs.map (readReg · s))[k]? = some v → memRead t.mem (s.sp - BitVec.ofNat 8 k) = v := by
  obtain ⟨noSP, noIP, noIR⟩ := plain
  obtain ⟨ticked, bytes⟩ := step_eq_afterPush running (opcode ▸ pushes)
  obtain rfl : afterPush s = t := Host.Outcome.next.inj (ticked.symm.trans pushed)
  have stored : ∀ k v, (rs.map (readReg · s))[k]? = some v →
      memRead (afterPush s).mem (s.sp - BitVec.ofNat 8 k) = v := fun k v h => memRead_afterPush (bytes ▸ h)
  refine ⟨?_, stored⟩
  have fetched : (afterPush s).setIR q =
      { s with ip := s.ip + 1#8, ir := q, sp := s.sp - BitVec.ofNat 8 rs.length, mem := (afterPush s).mem } := by
    simp [afterPush, State.setIR, bytes]
  have restored : popRegs rs.reverse ((afterPush s).setIR q) =
      { s with ip := s.ip + 1#8, ir := q, mem := (afterPush s).mem } := by
    rw [fetched]
    refine popRegs_reverse_of_stored (s := writeReg .ir q (writeReg .ip (s.ip + 1#8) s)) noSP ?_
    rwa [map_readReg_writeReg noIR, map_readReg_writeReg noIP]
  have clear : halted { s with ip := s.ip + 1#8, ir := q, mem := (afterPush s).mem } = false :=
    (ready_eq_true s).mp running
  rw [step_popRegs (s := afterPush s) running opcode' pops, restored, advance, clear] at popped
  rw [← add_one_add_one]
  exact (Host.Outcome.next.inj popped).symm

/-- Settles O40: the five mirror pairs, and POP_REG reading the lower two of the three bytes of PUSH_ALL. -/
theorem pushPopRoundTrips : Obligations.PushPopRoundTrips := by
  intro s t u running pushed popped
  refine ⟨fun op op' => ?_, fun op op' => ?_, fun op op' => ?_, fun op op' => ?_, fun op op' => ?_, fun op op' => ?_⟩
  · obtain ⟨rfl, cell⟩ := restored_of_push_pop (rs := [.ax, .bx, .flags]) running pushed popped op op' rfl rfl
      (by decide)
    exact ⟨rfl, rfl, rfl, rfl, by simpa using cell 0 s.ax rfl, cell 1 s.bx rfl, cell 2 s.flags rfl⟩
  · obtain ⟨rfl, cell⟩ := restored_of_push_pop (rs := [.ax, .bx]) running pushed popped op op' rfl rfl (by decide)
    exact ⟨rfl, rfl, rfl, rfl, by simpa using cell 0 s.ax rfl, cell 1 s.bx rfl⟩
  · obtain ⟨rfl, cell⟩ := restored_of_push_pop (rs := [.ax]) running pushed popped op op' rfl rfl (by decide)
    exact ⟨rfl, rfl, rfl, rfl, by simpa using cell 0 s.ax rfl⟩
  · obtain ⟨rfl, cell⟩ := restored_of_push_pop (rs := [.bx]) running pushed popped op op' rfl rfl (by decide)
    exact ⟨rfl, rfl, rfl, rfl, by simpa using cell 0 s.bx rfl⟩
  · obtain ⟨rfl, cell⟩ := restored_of_push_pop (rs := [.flags]) running pushed popped op op' rfl rfl (by decide)
    exact ⟨rfl, rfl, rfl, rfl, by simpa using cell 0 s.flags rfl⟩
  · obtain ⟨t', ticked, left, -, second, third, -⟩ := (pushManyTick s running).2 op
    obtain rfl : t = t' := Host.Outcome.next.inj (pushed.symm.trans ticked)
    have sp : t.sp = s.sp - 3#8 := by rw [left]
    have flags : t.flags = s.flags := by rw [left]
    have still_running : ready t = true := by rwa [ready, halted, flags]
    rw [(popRegisterTick t still_running).2.2 op'] at popped
    obtain rfl := Host.Outcome.next.inj popped
    have lowest : t.sp + 1#8 = s.sp - 2#8 := by rw [sp]; bv_omega
    have upper : t.sp + 2#8 = s.sp - 1#8 := by rw [sp]; bv_omega
    exact ⟨(congrArg (memRead t.mem) lowest).trans third, (congrArg (memRead t.mem) upper).trans second⟩

end Sys2Proof.Machine
end

section
/-! SUPPORT. The jumps (45_jump.md): their handlers and their ticks, each by the proposition that its condition decides. -/

namespace Sys2Proof.Machine

/-- A jump on a decided condition, as a write of `IP` (R120). -/
theorem jumpIf_decide (p : Prop) [Decidable p] (target : Byte) (s : State) :
    jumpIf (decide p) target s = { s with ip := if p then target - 1#8 else s.ip + 1#8 } := by
  simp only [jumpIf_eq, decide_eq_true_eq]

/-- A handler that jumps on a decided condition (R120). -/
theorem exec_of_jumpIf {i : Instr} {c : Bool} {target : Byte} {s : State} (p : Prop) [Decidable p]
    (handler : exec i s = .next (jumpIf c target s)) (condition : c = decide p) :
    exec i s = .next { s with ip := if p then target - 1#8 else s.ip + 1#8 } := by
  rw [handler, condition, jumpIf_decide]

/-- Settles O19: every handler is `jumpIf` on its comparator, which decides the condition of the statement. -/
theorem jumpHandlersWriteOnlyIP : Obligations.JumpHandlersWriteOnlyIP := fun _ _ =>
  ⟨exec_of_jumpIf True rfl rfl,
    exec_of_jumpIf _ rfl Bool.decide_eq_true.symm,
    exec_of_jumpIf _ rfl rfl,
    exec_of_jumpIf _ rfl (cmpNotEqual_eq_decide _ _),
    exec_of_jumpIf _ rfl rfl, exec_of_jumpIf _ rfl rfl, exec_of_jumpIf _ rfl rfl, exec_of_jumpIf _ rfl rfl⟩

/-- The tick of a jump: `IP` is two on, or at the operand byte's value, one past where the handler leaves it (R120). -/
theorem step_jump {s : State} {op : Byte} (p : Prop) [Decidable p] (running : ready s = true)
    (opcode : nextOpcode s = op) (jump : actionOf op = .jump) (condition : jumpCondition op s = decide p) :
    step s = .next { s with ir := op, ip := if p then nextOperand s else s.ip + 2#8 } := by
  have kept : .flags ∉ (actionOf op).written := by simp [jump, Action.written]
  have fetched : jumpCondition op (s.setIR op) = decide p := condition
  rw [step_of_flags_kept running opcode kept, jump, Action.apply, fetched, jumpIf_decide]
  by_cases taken : p
  · simp only [if_pos taken, incIP_eq, target_of_jump]
    rfl
  · simp only [if_neg taken, incIP_eq, ← add_one_add_one]
    rfl

/-- Settles O31: the condition always holds. -/
theorem jumpAlwaysTick : Obligations.JumpAlwaysTick := fun _ running op => step_jump True running op rfl rfl

/-- Settles O32: the condition is bit 4 of FLAGS, which Fetch leaves alone. -/
theorem jumpOnCarryTick : Obligations.JumpOnCarryTick := fun _ running op =>
  step_jump _ running op rfl Bool.decide_eq_true.symm

/-- Settles O33: each opcode's condition in R129's list is the comparison stated. -/
theorem jumpOnComparisonTick : Obligations.JumpOnComparisonTick := fun _ running =>
  ⟨fun op => step_jump _ running op rfl rfl, fun op => step_jump _ running op rfl rfl,
    fun op => step_jump _ running op rfl rfl, fun op => step_jump _ running op rfl rfl,
    fun op => step_jump _ running op rfl rfl, fun op => step_jump _ running op rfl rfl⟩

end Sys2Proof.Machine
end

section
/-! SUPPORT. No exceptions (60_exceptions.md): every tick answers a next state, and the Halted state is left by no number
of ticks. -/

namespace Sys2Proof.Machine

/-- A run of any machine from a state that its step leaves as it is stays there. -/
theorem run_eq_of_step_eq {M : Host.Core} {s : M.State} (fixed : M.step s = .next s) (k : Nat) :
    M.run k s = .next s := by
  induction k with
  | zero => rfl
  | succ k ih => simp only [Host.Core.run, fixed, ih]

/-- Settles O11: a Halted tick is a step to the same state (R67), so the run never leaves it. -/
theorem haltedForGood : Obligations.HaltedForGood := fun _ k stopped =>
  run_eq_of_step_eq (M := Sys2Proof.core) (step_halted stopped) k

/-- Settles O13: from a Halted state the step is the state itself, and from a Running one every handler completes. -/
theorem noTickStops : Obligations.NoTickStops := exists_step

end Sys2Proof.Machine
end

section
/-! SUPPORT. The start of a run (70_reset_and_hazards.md): its first tick when no image was loaded (R157). -/

namespace Sys2Proof.Machine

/-- Settles O8: an empty image leaves the state of Reset, whose cell 0 holds the opcode byte of HALT. -/
theorem emptyImageHaltsAtOnce : Obligations.EmptyImageHaltsAtOnce := by
  intro s loaded
  obtain rfl : s = State.reset := eq_of_loadImage loaded
  have running : ready State.reset = true := by decide
  have opcode : nextOpcode State.reset = 0x00#8 := memRead_nil _
  exact (haltTick State.reset running opcode).1

end Sys2Proof.Machine
end
